-- ==== Sys2Proof/Word.lean ====
section
/-! DEFINITION. The bit vectors that travel on the buses of the block: a byte, and one bus type for
each data format of `30_encoding.md` R39 to R45. A buffer of `n` bytes is a bus of `8n` bits with
the byte at offset `i` on bits `8i+7 : 8i` (R7, R24). -/

namespace Sys2Proof

/-- A byte: 8 bits, bit 7 the most significant (R7). -/
abbrev Byte := BitVec 8

/-- Format F-CHS: 3 bytes on 24 bits (R40). -/
abbrev ChsBuf := BitVec 24

/-- Format F-LBA: 4 bytes on 32 bits (R41). -/
abbrev LbaBuf := BitVec 32

/-- Format F-PE: 16 bytes on 128 bits (R44). -/
abbrev EntryBuf := BitVec 128

/-- The bootstrap area: 446 bytes on 3568 bits (R25, R33). -/
abbrev BootBuf := BitVec 3568

/-- Format F-MBR: 512 bytes on 4096 bits (R45). -/
abbrev SectorBuf := BitVec 4096

/-- The encoding of one script line (R54): a string of bits of any length, written as the number whose
bit 0 is the first of them, with zeros above the last. -/
abbrev ReqWord := Nat

end Sys2Proof
end

