-- ==== Sys2Proof/Config.lean ====
section
/-! DEFINITION. The implementation parameters of `00_scope.md` R5. All but one have the value the
spec fixes; `TYPE_TABLE` is open (R84, decision D13) and enters through one constant with no body. -/

namespace Sys2Proof.Config

/-- `CHS_BYTES` (R5). -/
abbrev chsBytes : Nat := 3
/-- `LBA_BYTES` (R5). -/
abbrev lbaBytes : Nat := 4
/-- `PE_BYTES` (R5). -/
abbrev peBytes : Nat := 16
/-- `SEC_BYTES` (R5). -/
abbrev secBytes : Nat := 512
/-- `BOOT_BYTES` (R5). -/
abbrev bootBytes : Nat := 446
/-- `PT_OFFSET` (R5): the offset of slot 0 in the sector. -/
abbrev ptOffset : Nat := 446
/-- `N_SLOTS` (R5). -/
abbrev nSlots : Nat := 4
/-- `SIG_OFFSET` (R5). -/
abbrev sigOffset : Nat := 510
/-- `SIG0` (R5): the signature byte at offset 510. -/
abbrev sig0 : Byte := 0x55#8
/-- `SIG1` (R5): the signature byte at offset 511. -/
abbrev sig1 : Byte := 0xAA#8
/-- `MASK_CYL_HI` (R5): the cylinder-high bits of CHS byte 1. -/
abbrev maskCylHi : Byte := 0xC0#8
/-- `MASK_SECTOR` (R5): the sector bits of CHS byte 1. -/
abbrev maskSector : Byte := 0x3F#8

/-- Members of `TYPE_TABLE` beyond the two mandatory ones. The spec leaves the table open (R84, N2,
U3), so this constant has no body: a claim holds whatever it is (assumption 8). Only `type_known`
depends on it. -/
opaque furtherTypes : Byte → Bool

/-- `TYPE_TABLE` as a set of bytes, for a choice `more` of the members the spec leaves open. Every
table that contains 0x00 and 0x07, and no other, arises from some `more` (R84). -/
def typeTableWith (more : Byte → Bool) (x : Byte) : Bool :=
  x == 0x00#8 || x == 0x07#8 || more x

end Sys2Proof.Config
end

