-- ==== Sys2Proof/Syntax.lean ====
section
/-! DEFINITION. The operations of the block as syntax: one constructor of `Instr` for each row of
`spec/opcode_table.json` (13 operations and 3 reserved codes, R49; 9 pseudo-operations, R53), each
with the values its line puts on input ports (R21). -/

namespace Sys2Proof

/-- One value for each of the four positional slots of the partition table (R107). -/
structure Slots (α : Type) where
  s0 : α
  s1 : α
  s2 : α
  s3 : α
deriving DecidableEq, Repr

/-- The value at slot `k` (R107: slots are positional). -/
def Slots.get {α : Type} (v : Slots α) (k : Fin 4) : α :=
  match k with
  | 0 => v.s0
  | 1 => v.s1
  | 2 => v.s2
  | 3 => v.s3

/-- Slot by slot, never reordered (R107). -/
def Slots.map {α β : Type} (f : α → β) (v : Slots α) : Slots β :=
  ⟨f v.s0, f v.s1, f v.s2, f v.s3⟩

/-- The same value in every slot. -/
def Slots.all {α : Type} (a : α) : Slots α := ⟨a, a, a, a⟩

/-- The ten inputs of `PE_ENCODE` (R21, R91), each at its port's width. -/
structure EntryIn where
  status_in : Byte
  cyl_first_in : BitVec 16
  head_first_in : Byte
  sec_first_in : Byte
  ptype_in : Byte
  cyl_last_in : BitVec 16
  head_last_in : Byte
  sec_last_in : Byte
  lba_first_in : BitVec 32
  lba_length_in : BitVec 32
deriving DecidableEq, Repr

/-- All ten fields zero: the fields of the empty entry (R88). -/
def EntryIn.zero : EntryIn := ⟨0, 0, 0, 0, 0, 0, 0, 0, 0, 0⟩

/-- One transaction as a script line names it (R54): a mnemonic of R49 or R53 with the values of
its input ports, in the order of R21. -/
inductive Instr where
  /-- `CHS_EMPTY`, op 0x0 (R55). -/
  | chsEmpty
  /-- `CHS_UNPACK`, op 0x1 (R56). -/
  | chsUnpack (chs_b : ChsBuf)
  /-- `CHS_PACK`, op 0x2 (R57). -/
  | chsPack (base_b : ChsBuf) (we_cyl we_head we_sec : Bool) (cyl_in : BitVec 16)
      (head_in sec_in : Byte)
  /-- `LBA_EMPTY`, op 0x3 (R71). -/
  | lbaEmpty
  /-- `LBA_UNPACK`, op 0x4 (R73). -/
  | lbaUnpack (lba_b : LbaBuf) (avail : BitVec 10)
  /-- `LBA_PACK`, op 0x5 (R72). -/
  | lbaPack (value_in : BitVec 32)
  /-- `ST_CLASSIFY`, op 0x6 (R80). -/
  | stClassify (status_in : Byte)
  /-- `TY_CLASSIFY`, op 0x7 (R83). -/
  | tyClassify (ptype_in : Byte)
  /-- `PE_EMPTY`, op 0x8 (R88). -/
  | peEmpty
  /-- `PE_DECODE`, op 0x9 (R89). -/
  | peDecode (pe_b : EntryBuf)
  /-- `PE_ENCODE`, op 0xA (R91). -/
  | peEncode (entry : EntryIn)
  /-- `MBR_DECODE`, op 0xB (R100). -/
  | mbrDecode (mbr_b : SectorBuf)
  /-- `MBR_ENCODE`, op 0xC (R103). -/
  | mbrEncode (boot_keep : Bool) (boot_in_b : BootBuf) (entries : Slots EntryIn)
  /-- Reserved code 0xD (R51). -/
  | reservedD
  /-- Reserved code 0xE (R51). -/
  | reservedE
  /-- Reserved code 0xF (R51). -/
  | reservedF
  /-- `GET_CYL`: `CHS_UNPACK`, result `cyl` (R58). -/
  | getCyl (chs_b : ChsBuf)
  /-- `GET_HEAD`: `CHS_UNPACK`, result `head` (R59). -/
  | getHead (chs_b : ChsBuf)
  /-- `GET_SEC`: `CHS_UNPACK`, result `sec` (R60). -/
  | getSec (chs_b : ChsBuf)
  /-- `CHS_ENCODE`: `CHS_PACK` with base zero and every enable 1 (R61). -/
  | chsEncode (cyl_in : BitVec 16) (head_in sec_in : Byte)
  /-- `CHS_SETCYL`: `CHS_PACK` with `we_cyl` alone (R62). -/
  | chsSetcyl (base_b : ChsBuf) (cyl_in : BitVec 16)
  /-- `CHS_SETHEAD`: `CHS_PACK` with `we_head` alone (R63). -/
  | chsSethead (base_b : ChsBuf) (head_in : Byte)
  /-- `CHS_SETSEC`: `CHS_PACK` with `we_sec` alone (R64). -/
  | chsSetsec (base_b : ChsBuf) (sec_in : Byte)
  /-- `MBR_BUILD`: `MBR_ENCODE` with `boot_keep` = 0 (R105). -/
  | mbrBuild (entries : Slots EntryIn)
  /-- `MBR_UPDATE`: `MBR_ENCODE` with `boot_keep` = 1 (R106). -/
  | mbrUpdate (boot_in_b : BootBuf) (entries : Slots EntryIn)
deriving DecidableEq, Repr

end Sys2Proof
end

