-- ==== Sys2Proof/Machine/Ports.lean ====
section
/-! DEFINITION. The ports of the block, unit by unit, under the names of `10_state.md` R21: the
input wires a host drives, the output wires a unit drives, and the names of the output ports. -/

namespace Sys2Proof.Machine

/-- The nine units of R2. -/
inductive UnitName where
  | chsUnpacker
  | chsPacker
  | lbaUnpacker
  | lbaPacker
  | partitionDecoder
  | partitionEncoder
  | enumClassifier
  | sectorDecoder
  | sectorEncoder
deriving DecidableEq, Repr

/-- The codes that can stand on `err` (R115). Code 3 is never produced and has no constructor (U11;
DEDUCED, assumption 18). -/
inductive Err where
  /-- 0: no failure. -/
  | noFailure
  /-- 1: `TruncatedInput`, by `LBA_UNPACK` (R113). -/
  | truncatedInput
  /-- 2: `InvalidSignature`, by `MBR_DECODE` (R114). -/
  | invalidSignature
deriving DecidableEq, Repr

/-- The classes that can stand on `st_class` (R80). Code 3 is never produced (U11). -/
inductive StClass where
  /-- 0 -/
  | notBootable
  /-- 1 -/
  | bootable
  /-- 2 -/
  | invalid
deriving DecidableEq, Repr

/-! ## Input ports (R21) -/

/-- Inputs of `CHS_unpacker`. -/
structure ChsUnpackerIn where
  chs_b : ChsBuf
deriving DecidableEq, Repr

/-- Inputs of `CHS_packer`. -/
structure ChsPackerIn where
  base_b : ChsBuf
  we_cyl : Bool
  we_head : Bool
  we_sec : Bool
  cyl_in : BitVec 16
  head_in : Byte
  sec_in : Byte
deriving DecidableEq, Repr

/-- Inputs of `LBA_unpacker`. -/
structure LbaUnpackerIn where
  lba_b : LbaBuf
  avail : BitVec 10
deriving DecidableEq, Repr

/-- Inputs of `LBA_packer`. -/
structure LbaPackerIn where
  value_in : BitVec 32
deriving DecidableEq, Repr

/-- Inputs of `ENUM_classifier`. -/
structure EnumClassifierIn where
  status_in : Byte
  ptype_in : Byte
deriving DecidableEq, Repr

/-- Inputs of the unit `MBR_partition_decoder`. -/
structure PartitionDecoderIn where
  pe_b : EntryBuf
deriving DecidableEq, Repr

/-- Inputs of `SECTOR_decoder`. -/
structure SectorDecoderIn where
  mbr_b : SectorBuf
deriving DecidableEq, Repr

/-- Inputs of `SECTOR_encoder`; slot `k` of `entries` holds the ports `…_k_in`. -/
structure SectorEncoderIn where
  boot_keep : Bool
  boot_in_b : BootBuf
  entries : Slots EntryIn
deriving DecidableEq, Repr

/-- Every input wire: `op` (R49, R50) and the input ports of every unit (R21). -/
structure Inputs where
  op : BitVec 4
  chsUnpacker : ChsUnpackerIn
  chsPacker : ChsPackerIn
  lbaUnpacker : LbaUnpackerIn
  lbaPacker : LbaPackerIn
  enumClassifier : EnumClassifierIn
  partitionDecoder : PartitionDecoderIn
  partitionEncoder : EntryIn
  sectorDecoder : SectorDecoderIn
  sectorEncoder : SectorEncoderIn
deriving DecidableEq, Repr

/-- Every input wire at 0. -/
def Inputs.zero : Inputs where
  op := 0
  chsUnpacker := ⟨0⟩
  chsPacker := ⟨0, false, false, false, 0, 0, 0⟩
  lbaUnpacker := ⟨0, 0⟩
  lbaPacker := ⟨0⟩
  enumClassifier := ⟨0, 0⟩
  partitionDecoder := ⟨0⟩
  partitionEncoder := EntryIn.zero
  sectorDecoder := ⟨0⟩
  sectorEncoder := ⟨false, 0, Slots.all EntryIn.zero⟩

/-! ## Output ports (R21) -/

/-- Outputs of `CHS_unpacker`. -/
structure ChsUnpackerOut where
  cyl : BitVec 10
  head : Byte
  sec : BitVec 6
deriving DecidableEq, Repr

/-- Outputs of `CHS_packer`. -/
structure ChsPackerOut where
  chs_out_b : ChsBuf
deriving DecidableEq, Repr

/-- Outputs of `LBA_unpacker`. -/
structure LbaUnpackerOut where
  value : BitVec 32
  consumed : BitVec 3
  remain : BitVec 10
  trunc : Bool
deriving DecidableEq, Repr

/-- Outputs of `LBA_packer`. -/
structure LbaPackerOut where
  lba_out_b : LbaBuf
  value : BitVec 32
deriving DecidableEq, Repr

/-- Outputs of `ENUM_classifier`. -/
structure EnumClassifierOut where
  st_class : StClass
  type_known : Bool
deriving DecidableEq, Repr

/-- The fifteen outputs of `PE_DECODE`. -/
structure EntryOut where
  status : Byte
  st_class : StClass
  chs_first_b : ChsBuf
  cyl_first : BitVec 10
  head_first : Byte
  sec_first : BitVec 6
  ptype : Byte
  type_known : Bool
  chs_last_b : ChsBuf
  cyl_last : BitVec 10
  head_last : Byte
  sec_last : BitVec 6
  lba_first : BitVec 32
  lba_length : BitVec 32
  unused : Bool
deriving DecidableEq, Repr

/-- Outputs of the unit `MBR_partition_encoder`. -/
structure PartitionEncoderOut where
  pe_out_b : EntryBuf
deriving DecidableEq, Repr

/-- The outputs of `SECTOR_decoder` for one slot: `pe_k_b` and the fifteen of `PE_DECODE`. -/
structure SlotOut where
  pe_b : EntryBuf
  entry : EntryOut
deriving DecidableEq, Repr

/-- Outputs of `SECTOR_decoder`. -/
structure SectorDecoderOut where
  sig_ok : Bool
  boot_out_b : BootBuf
  slots : Slots SlotOut
deriving DecidableEq, Repr

/-- Outputs of `SECTOR_encoder`. -/
structure SectorEncoderOut where
  mbr_out_b : SectorBuf
deriving DecidableEq, Repr

/-- Every output wire: the response's `err` (R50) and the output ports of every unit (R21). The
`err` of the selected unit is `err`; that of every other unit is 0 (assumption 11). -/
structure Outputs where
  err : Err
  chsUnpacker : ChsUnpackerOut
  chsPacker : ChsPackerOut
  lbaUnpacker : LbaUnpackerOut
  lbaPacker : LbaPackerOut
  enumClassifier : EnumClassifierOut
  partitionDecoder : EntryOut
  partitionEncoder : PartitionEncoderOut
  sectorDecoder : SectorDecoderOut
  sectorEncoder : SectorEncoderOut
deriving DecidableEq, Repr

/-- The fifteen entry outputs all-zero bits (R100 on failure, R50 when not selected). -/
def EntryOut.zero : EntryOut :=
  ⟨0, .notBootable, 0, 0, 0, 0, 0, false, 0, 0, 0, 0, 0, 0, false⟩

/-- Every output wire at 0: what ports outside the selected operation read as (R50, D24), on every
unit (DEDUCED, assumption 17). -/
def Outputs.zero : Outputs where
  err := .noFailure
  chsUnpacker := ⟨0, 0, 0⟩
  chsPacker := ⟨0⟩
  lbaUnpacker := ⟨0, 0, 0, false⟩
  lbaPacker := ⟨0, 0⟩
  enumClassifier := ⟨.notBootable, false⟩
  partitionDecoder := EntryOut.zero
  partitionEncoder := ⟨0⟩
  sectorDecoder := ⟨false, 0, Slots.all ⟨0, EntryOut.zero⟩⟩
  sectorEncoder := ⟨0⟩

/-! ## Names of output ports -/

/-- The names of the fifteen outputs of `PE_DECODE` (R21). -/
inductive EntryPort where
  | status
  | st_class
  | chs_first_b
  | cyl_first
  | head_first
  | sec_first
  | ptype
  | type_known
  | chs_last_b
  | cyl_last
  | head_last
  | sec_last
  | lba_first
  | lba_length
  | unused
deriving DecidableEq, Repr

/-- The names of the output ports of R21. `slot k p` is the port `p` with `_k` appended. -/
inductive OutPort where
  | err
  | chs_out_b
  | cyl
  | head
  | sec
  | lba_out_b
  /-- `value` of `LBA_packer`. -/
  | packer_value
  /-- `value` of `LBA_unpacker`. -/
  | value
  | consumed
  | remain
  | trunc
  | st_class
  | type_known
  | pe_out_b
  | entry (p : EntryPort)
  | sig_ok
  | boot_out_b
  | slot_pe_b (k : Fin 4)
  | slot (k : Fin 4) (p : EntryPort)
  | mbr_out_b
deriving DecidableEq, Repr

/-- The fifteen entry ports in the order of R21. -/
def EntryPort.all : List EntryPort :=
  [.status, .st_class, .chs_first_b, .cyl_first, .head_first, .sec_first, .ptype, .type_known,
    .chs_last_b, .cyl_last, .head_last, .sec_last, .lba_first, .lba_length, .unused]

end Sys2Proof.Machine
end

