-- ==== Sys2Proof/WellFormed.lean ====
section
/-! DEFINITION. Which instructions a host may issue. Every data encoding is legal (R52) and every
operand has its port's exact width by its type (R111, R128), so the one check is that of R51: a host
must not issue a reserved operation code. -/

namespace Sys2Proof

/-- The instruction names an operation, not a reserved code (R51). -/
def Instr.wellFormed : Instr → Bool
  | .reservedD => false
  | .reservedE => false
  | .reservedF => false
  | .chsEmpty => true
  | .chsUnpack _ => true
  | .chsPack _ _ _ _ _ _ _ => true
  | .lbaEmpty => true
  | .lbaUnpack _ _ => true
  | .lbaPack _ => true
  | .stClassify _ => true
  | .tyClassify _ => true
  | .peEmpty => true
  | .peDecode _ => true
  | .peEncode _ => true
  | .mbrDecode _ => true
  | .mbrEncode _ _ _ => true
  | .getCyl _ => true
  | .getHead _ => true
  | .getSec _ => true
  | .chsEncode _ _ _ => true
  | .chsSetcyl _ _ => true
  | .chsSethead _ _ => true
  | .chsSetsec _ _ => true
  | .mbrBuild _ => true
  | .mbrUpdate _ _ => true

/-- The instruction is one of the sixteen codes of R49, not a pseudo-operation of R53. -/
def Instr.isCore : Instr → Bool
  | .getCyl _ => false
  | .getHead _ => false
  | .getSec _ => false
  | .chsEncode _ _ _ => false
  | .chsSetcyl _ _ => false
  | .chsSethead _ _ => false
  | .chsSetsec _ _ => false
  | .mbrBuild _ => false
  | .mbrUpdate _ _ => false
  | .chsEmpty => true
  | .chsUnpack _ => true
  | .chsPack _ _ _ _ _ _ _ => true
  | .lbaEmpty => true
  | .lbaUnpack _ _ => true
  | .lbaPack _ => true
  | .stClassify _ => true
  | .tyClassify _ => true
  | .peEmpty => true
  | .peDecode _ => true
  | .peEncode _ => true
  | .mbrDecode _ => true
  | .mbrEncode _ _ _ => true
  | .reservedD => true
  | .reservedE => true
  | .reservedF => true

/-- The fields of an entry are in the ranges of R15: cylinders at most 1023, sectors at most 63. An
entry out of range is legal and is truncated (R48, R52); only round trips ask for this (R97). -/
def EntryIn.inRange (e : EntryIn) : Bool :=
  decide (e.cyl_first_in.toNat ≤ 1023) && decide (e.sec_first_in.toNat ≤ 63) &&
    decide (e.cyl_last_in.toNat ≤ 1023) && decide (e.sec_last_in.toNat ≤ 63)

end Sys2Proof
end

