-- ==== Sys2Proof/Decode.lean ====
section
/-! DEFINITION. Requests as bits and as wires: the decoder of an encoded script line, the selection of
an operation by `op` on the input ports, the expansion of the pseudo-operations, and the two encoders
(a line's word; the wires a host drives). Rules: `30_encoding.md` R48 to R54, `10_state.md` R21. -/

namespace Sys2Proof

open Sys2Proof.Machine

/-! ## Fields of an encoded line

Bits 3:0 are `op`; the input values of R21 follow from bit 4 on, the first in the lowest bits, with
no gap (R54; the bit places are a DESIGN CHOICE, assumption 5). Bits above the last value belong to
no port and are ignored (R50). -/

/-- The field of `n` bits at bit `off`. -/
def getField (w : ReqWord) (off n : Nat) : BitVec n := BitVec.ofNat n (w >>> off)

/-- The one-bit field at bit `off`. -/
def getBit (w : ReqWord) (off : Nat) : Bool := w.testBit off

/-- `w` with the value `v` placed at bit `off`, where `w` has zeros. -/
def putField {n : Nat} (w : ReqWord) (off : Nat) (v : BitVec n) : ReqWord :=
  w ||| (v.toNat <<< off)

/-- `w` with the bit `b` placed at bit `off`, where `w` has a zero. -/
def putBit (w : ReqWord) (off : Nat) (b : Bool) : ReqWord := w ||| (b.toNat <<< off)

/-- The ten inputs of one entry, 144 bits from bit `off` on (R21). -/
def getEntry (w : ReqWord) (off : Nat) : EntryIn where
  status_in := getField w off 8
  cyl_first_in := getField w (off + 8) 16
  head_first_in := getField w (off + 24) 8
  sec_first_in := getField w (off + 32) 8
  ptype_in := getField w (off + 40) 8
  cyl_last_in := getField w (off + 48) 16
  head_last_in := getField w (off + 64) 8
  sec_last_in := getField w (off + 72) 8
  lba_first_in := getField w (off + 80) 32
  lba_length_in := getField w (off + 112) 32

/-- The ten inputs of one entry placed from bit `off` on. -/
def putEntry (w : ReqWord) (off : Nat) (e : EntryIn) : ReqWord :=
  let w := putField w off e.status_in
  let w := putField w (off + 8) e.cyl_first_in
  let w := putField w (off + 24) e.head_first_in
  let w := putField w (off + 32) e.sec_first_in
  let w := putField w (off + 40) e.ptype_in
  let w := putField w (off + 48) e.cyl_last_in
  let w := putField w (off + 64) e.head_last_in
  let w := putField w (off + 72) e.sec_last_in
  let w := putField w (off + 80) e.lba_first_in
  putField w (off + 112) e.lba_length_in

/-- The forty entry inputs, slot 0 first. -/
def getEntries (w : ReqWord) (off : Nat) : Slots EntryIn where
  s0 := getEntry w off
  s1 := getEntry w (off + 144)
  s2 := getEntry w (off + 288)
  s3 := getEntry w (off + 432)

/-- The forty entry inputs placed, slot 0 first. -/
def putEntries (w : ReqWord) (off : Nat) (v : Slots EntryIn) : ReqWord :=
  putEntry (putEntry (putEntry (putEntry w off v.s0) (off + 144) v.s1) (off + 288) v.s2)
    (off + 432) v.s3

/-- The operation code of a line (R49, R54). -/
def opOf (w : ReqWord) : BitVec 4 := getField w 0 4

/-! ## Decoding a line -/

/-- The transaction an encoded line stands for: the sixteen rows of R49, read off the bits of `op`.
Total: every word is a line. The reserved codes are the instructions that `exec` refuses by name
(R51); no word decodes to a pseudo-operation, whose words are its expansion's (R54; DEDUCED,
assumption 16). -/
def decode (w : ReqWord) : Instr :=
  match getBit w 3, getBit w 2, getBit w 1, getBit w 0 with
  | false, false, false, false => .chsEmpty
  | false, false, false, true => .chsUnpack (getField w 4 24)
  | false, false, true, false =>
    .chsPack (getField w 4 24) (getBit w 28) (getBit w 29) (getBit w 30) (getField w 31 16)
      (getField w 47 8) (getField w 55 8)
  | false, false, true, true => .lbaEmpty
  | false, true, false, false => .lbaUnpack (getField w 4 32) (getField w 36 10)
  | false, true, false, true => .lbaPack (getField w 4 32)
  | false, true, true, false => .stClassify (getField w 4 8)
  | false, true, true, true => .tyClassify (getField w 4 8)
  | true, false, false, false => .peEmpty
  | true, false, false, true => .peDecode (getField w 4 128)
  | true, false, true, false => .peEncode (getEntry w 4)
  | true, false, true, true => .mbrDecode (getField w 4 4096)
  | true, true, false, false => .mbrEncode (getBit w 4) (getField w 5 3568) (getEntries w 3573)
  | true, true, false, true => .reservedD
  | true, true, true, false => .reservedE
  | true, true, true, true => .reservedF

/-- The instruction the decoder reads from the line whose low `nbits` bits are `w` and whose other
bits are zero. -/
def decodeTableWord (nbits w : Nat) : Option Instr :=
  some (decode (w % 2 ^ nbits))

/-! ## Pseudo-operations (R53) -/

/-- The operation a pseudo-operation is a setting of (R53). An input that the setting makes
irrelevant (an operand whose enable is 0, `boot_in_b` under `boot_keep` = 0) is 0 here: DESIGN
CHOICE, assumption 6. -/
def Instr.expand : Instr → Instr
  | .getCyl b => .chsUnpack b
  | .getHead b => .chsUnpack b
  | .getSec b => .chsUnpack b
  | .chsEncode c h s => .chsPack 0 true true true c h s
  | .chsSetcyl b c => .chsPack b true false false c 0 0
  | .chsSethead b h => .chsPack b false true false 0 h 0
  | .chsSetsec b s => .chsPack b false false true 0 0 s
  | .mbrBuild v => .mbrEncode false 0 v
  | .mbrUpdate boot v => .mbrEncode true boot v
  | .chsEmpty => .chsEmpty
  | .chsUnpack b => .chsUnpack b
  | .chsPack b wc wh ws c h s => .chsPack b wc wh ws c h s
  | .lbaEmpty => .lbaEmpty
  | .lbaUnpack b n => .lbaUnpack b n
  | .lbaPack v => .lbaPack v
  | .stClassify x => .stClassify x
  | .tyClassify x => .tyClassify x
  | .peEmpty => .peEmpty
  | .peDecode b => .peDecode b
  | .peEncode e => .peEncode e
  | .mbrDecode b => .mbrDecode b
  | .mbrEncode k boot v => .mbrEncode k boot v
  | .reservedD => .reservedD
  | .reservedE => .reservedE
  | .reservedF => .reservedF

/-- The operation code of an instruction (R49); a pseudo-operation has its expansion's (R54). -/
def Instr.opcode : Instr → BitVec 4
  | .chsEmpty => 0x0
  | .chsUnpack _ => 0x1
  | .chsPack _ _ _ _ _ _ _ => 0x2
  | .lbaEmpty => 0x3
  | .lbaUnpack _ _ => 0x4
  | .lbaPack _ => 0x5
  | .stClassify _ => 0x6
  | .tyClassify _ => 0x7
  | .peEmpty => 0x8
  | .peDecode _ => 0x9
  | .peEncode _ => 0xA
  | .mbrDecode _ => 0xB
  | .mbrEncode _ _ _ => 0xC
  | .reservedD => 0xD
  | .reservedE => 0xE
  | .reservedF => 0xF
  | .getCyl _ => 0x1
  | .getHead _ => 0x1
  | .getSec _ => 0x1
  | .chsEncode _ _ _ => 0x2
  | .chsSetcyl _ _ => 0x2
  | .chsSethead _ _ => 0x2
  | .chsSetsec _ _ => 0x2
  | .mbrBuild _ => 0xC
  | .mbrUpdate _ _ => 0xC

/-- The unit that performs the operation with a given code (R49, column `unit`); none for a reserved
code (R51). -/
def unitOf (op : BitVec 4) : Option UnitName :=
  match op.getLsbD 3, op.getLsbD 2, op.getLsbD 1, op.getLsbD 0 with
  | false, false, false, false => some .chsPacker
  | false, false, false, true => some .chsUnpacker
  | false, false, true, false => some .chsPacker
  | false, false, true, true => some .lbaPacker
  | false, true, false, false => some .lbaUnpacker
  | false, true, false, true => some .lbaPacker
  | false, true, true, false => some .enumClassifier
  | false, true, true, true => some .enumClassifier
  | true, false, false, false => some .partitionEncoder
  | true, false, false, true => some .partitionDecoder
  | true, false, true, false => some .partitionEncoder
  | true, false, true, true => some .sectorDecoder
  | true, true, false, false => some .sectorEncoder
  | true, true, false, true => none
  | true, true, true, false => none
  | true, true, true, true => none

/-! ## Encoding a line -/

/-- The words of `CHS_PACK` and of its four settings. -/
def chsPackWord (b : ChsBuf) (wc wh ws : Bool) (c : BitVec 16) (h s : Byte) : ReqWord :=
  let w := putField (putField 0 0 0x2#4) 4 b
  let w := putBit (putBit (putBit w 28 wc) 29 wh) 30 ws
  putField (putField (putField w 31 c) 47 h) 55 s

/-- The words of `MBR_ENCODE` and of its two settings. -/
def mbrEncodeWord (keep : Bool) (boot : BootBuf) (v : Slots EntryIn) : ReqWord :=
  putEntries (putField (putBit (putField 0 0 0xC#4) 4 keep) 5 boot) 3573 v

/-- The encoding of a line: its operation code followed by its input values (R54). -/
def encode : Instr → ReqWord
  | .chsEmpty => putField 0 0 0x0#4
  | .chsUnpack b => putField (putField 0 0 0x1#4) 4 b
  | .chsPack b wc wh ws c h s => chsPackWord b wc wh ws c h s
  | .lbaEmpty => putField 0 0 0x3#4
  | .lbaUnpack b n => putField (putField (putField 0 0 0x4#4) 4 b) 36 n
  | .lbaPack v => putField (putField 0 0 0x5#4) 4 v
  | .stClassify x => putField (putField 0 0 0x6#4) 4 x
  | .tyClassify x => putField (putField 0 0 0x7#4) 4 x
  | .peEmpty => putField 0 0 0x8#4
  | .peDecode b => putField (putField 0 0 0x9#4) 4 b
  | .peEncode e => putEntry (putField 0 0 0xA#4) 4 e
  | .mbrDecode b => putField (putField 0 0 0xB#4) 4 b
  | .mbrEncode k boot v => mbrEncodeWord k boot v
  | .reservedD => putField 0 0 0xD#4
  | .reservedE => putField 0 0 0xE#4
  | .reservedF => putField 0 0 0xF#4
  | .getCyl b => putField (putField 0 0 0x1#4) 4 b
  | .getHead b => putField (putField 0 0 0x1#4) 4 b
  | .getSec b => putField (putField 0 0 0x1#4) 4 b
  | .chsEncode c h s => chsPackWord 0 true true true c h s
  | .chsSetcyl b c => chsPackWord b true false false c 0 0
  | .chsSethead b h => chsPackWord b false true false 0 h 0
  | .chsSetsec b s => chsPackWord b false false true 0 0 s
  | .mbrBuild v => mbrEncodeWord false 0 v
  | .mbrUpdate boot v => mbrEncodeWord true boot v

/-- How many bits of a line with operation code `op` carry `op` or an input value; the bits above
belong to no port of the selected operation (R21, R50). -/
def lineBits (op : BitVec 4) : Nat :=
  match op.getLsbD 3, op.getLsbD 2, op.getLsbD 1, op.getLsbD 0 with
  | false, false, false, false => 4
  | false, false, false, true => 28
  | false, false, true, false => 63
  | false, false, true, true => 4
  | false, true, false, false => 46
  | false, true, false, true => 36
  | false, true, true, false => 12
  | false, true, true, true => 12
  | true, false, false, false => 4
  | true, false, false, true => 132
  | true, false, true, false => 148
  | true, false, true, true => 4100
  | true, true, false, false => 4149
  | true, true, false, true => 4
  | true, true, true, false => 4
  | true, true, true, true => 4

/-! ## Wires -/

/-- The transaction that the values on the input wires request: the operation `op` selects, with the
values on that operation's ports and on no others (R49, R50). -/
def selected (p : Inputs) : Instr :=
  match p.op.getLsbD 3, p.op.getLsbD 2, p.op.getLsbD 1, p.op.getLsbD 0 with
  | false, false, false, false => .chsEmpty
  | false, false, false, true => .chsUnpack p.chsUnpacker.chs_b
  | false, false, true, false =>
    .chsPack p.chsPacker.base_b p.chsPacker.we_cyl p.chsPacker.we_head p.chsPacker.we_sec
      p.chsPacker.cyl_in p.chsPacker.head_in p.chsPacker.sec_in
  | false, false, true, true => .lbaEmpty
  | false, true, false, false => .lbaUnpack p.lbaUnpacker.lba_b p.lbaUnpacker.avail
  | false, true, false, true => .lbaPack p.lbaPacker.value_in
  | false, true, true, false => .stClassify p.enumClassifier.status_in
  | false, true, true, true => .tyClassify p.enumClassifier.ptype_in
  | true, false, false, false => .peEmpty
  | true, false, false, true => .peDecode p.partitionDecoder.pe_b
  | true, false, true, false => .peEncode p.partitionEncoder
  | true, false, true, true => .mbrDecode p.sectorDecoder.mbr_b
  | true, true, false, false =>
    .mbrEncode p.sectorEncoder.boot_keep p.sectorEncoder.boot_in_b p.sectorEncoder.entries
  | true, true, false, true => .reservedD
  | true, true, true, false => .reservedE
  | true, true, true, true => .reservedF

/-- The `CHS_packer` wires of `CHS_PACK` or one of its settings driven. -/
def driveChsPack (p : Inputs) (b : ChsBuf) (wc wh ws : Bool) (c : BitVec 16) (h s : Byte) : Inputs :=
  { p with op := 0x2, chsPacker := ⟨b, wc, wh, ws, c, h, s⟩ }

/-- The `SECTOR_encoder` wires of `MBR_ENCODE` or one of its settings driven. -/
def driveMbrEncode (p : Inputs) (keep : Bool) (boot : BootBuf) (v : Slots EntryIn) : Inputs :=
  { p with op := 0xC, sectorEncoder := ⟨keep, boot, v⟩ }

/-- The input wires while the host presents the request of a line: `op` and the ports of the selected
operation carry the line's values. R50 and U13 let every other input port carry any value: here it
keeps what it carried (DESIGN CHOICE, assumption 19). -/
def drive (i : Instr) (p : Inputs) : Inputs :=
  match i with
  | .chsEmpty => { p with op := 0x0 }
  | .chsUnpack b => { p with op := 0x1, chsUnpacker := ⟨b⟩ }
  | .chsPack b wc wh ws c h s => driveChsPack p b wc wh ws c h s
  | .lbaEmpty => { p with op := 0x3 }
  | .lbaUnpack b n => { p with op := 0x4, lbaUnpacker := ⟨b, n⟩ }
  | .lbaPack v => { p with op := 0x5, lbaPacker := ⟨v⟩ }
  | .stClassify x =>
    { p with op := 0x6, enumClassifier := { p.enumClassifier with status_in := x } }
  | .tyClassify x =>
    { p with op := 0x7, enumClassifier := { p.enumClassifier with ptype_in := x } }
  | .peEmpty => { p with op := 0x8 }
  | .peDecode b => { p with op := 0x9, partitionDecoder := ⟨b⟩ }
  | .peEncode e => { p with op := 0xA, partitionEncoder := e }
  | .mbrDecode b => { p with op := 0xB, sectorDecoder := ⟨b⟩ }
  | .mbrEncode k boot v => driveMbrEncode p k boot v
  | .reservedD => { p with op := 0xD }
  | .reservedE => { p with op := 0xE }
  | .reservedF => { p with op := 0xF }
  | .getCyl b => { p with op := 0x1, chsUnpacker := ⟨b⟩ }
  | .getHead b => { p with op := 0x1, chsUnpacker := ⟨b⟩ }
  | .getSec b => { p with op := 0x1, chsUnpacker := ⟨b⟩ }
  | .chsEncode c h s => driveChsPack p 0 true true true c h s
  | .chsSetcyl b c => driveChsPack p b true false false c 0 0
  | .chsSethead b h => driveChsPack p b false true false 0 h 0
  | .chsSetsec b s => driveChsPack p b false false true 0 0 s
  | .mbrBuild v => driveMbrEncode p false 0 v
  | .mbrUpdate boot v => driveMbrEncode p true boot v

end Sys2Proof
end

