-- ==== Sys2Proof/Machine/State.lean ====
section
/-! DEFINITION. The state of the machine. The block has no storage element (`10_state.md` R10): what
it has are the wires of a transaction (R21), and these are the state, with the lines the host has yet
to present. There is no register, program counter, control register or memory to hold (R11 to R14,
R23). -/

namespace Sys2Proof.Machine

/-- The wires of the block and the host's script. -/
structure State where
  /-- The encoded lines the host has yet to present, first line first (R54). The MODEL's own field:
  the host's input, no queue in the block (R50; assumption 2). -/
  script : List ReqWord
  /-- The input wires: the request last presented, held until the next (R50, R136). -/
  inputs : Inputs
  /-- The output wires: the response to that request (R50, R136). -/
  outputs : Outputs
  /-- Which output ports the last line can hand to the host: the ports of the selected operation and
  `err` (R50), or the result of a pseudo-operation and `err`, its other outputs being ignored (R50, R53).
  The MODEL's own field (assumption 7). -/
  results : List OutPort
deriving DecidableEq, Repr

/-- Conditions that stop the machine with a fault: there are none. "No condition in this core is
fatal to the process" (R112, R120); `TruncatedInput` and `InvalidSignature` are next states with
`err` set (R119). Having no constructor is safe: nothing the spec gives an effect is stopped. -/
inductive Fault where
deriving DecidableEq, Repr

/-- Why a request has no next state. -/
inductive Refusal where
  /-- Raised by an arm of `exec` that has no meaning yet; none does. Safe: nothing is claimed of such
  an instruction. -/
  | notModelled (mnemonic : String)
  /-- Raised by `exec` for the reserved operation codes 0xD, 0xE and 0xF, to which the spec gives no
  response: "A model refuses a request with a reserved code" (R51, D21). Safe: nothing is claimed of
  such a request. -/
  | reservedOpcode (op : BitVec 4)
deriving DecidableEq, Repr

/-- The machine before any transaction. There is no reset and no stored value to set (R22, R125);
the input wires are at 0 (DESIGN CHOICE, assumption 3), the output wires carry the response to them
(R125; assumption 4), the host has no line to present and has received nothing (assumptions 2, 7). -/
def State.reset : State where
  script := []
  inputs := Inputs.zero
  outputs := Outputs.zero
  results := []

end Sys2Proof.Machine
end

