-- ==== Sys2Proof/Machine/Ops.lean ====
section
/-! DEFINITION. The shared operations: bytes of a buffer (`00_scope.md` R7, R8), the two failures
(`60_exceptions.md` R112 to R119), and performing a transaction (`30_encoding.md` R50). -/

namespace Sys2Proof.Machine

/-! ## Bytes of a buffer -/

/-- `B[i]`: the byte at offset `i`, bus bits `8i+7 : 8i` (R7, R24). -/
def byteAt {w : Nat} (b : BitVec w) (i : Nat) : Byte := b.extractLsb' (8 * i) 8

/-- `MemRead(B, off, n)`: the `n` bytes from offset `off` on, as a buffer (R8, R26). -/
def memRead {w : Nat} (b : BitVec w) (off n : Nat) : BitVec (8 * n) :=
  b.extractLsb' (8 * off) (8 * n)

/-- The 3-byte buffer `[b0 b1 b2]` (R7). -/
def bytes3 (b0 b1 b2 : Byte) : ChsBuf := b2 ++ b1 ++ b0

/-- The 4-byte buffer `[b0 b1 b2 b3]` (R7). -/
def bytes4 (b0 b1 b2 b3 : Byte) : LbaBuf := b3 ++ b2 ++ b1 ++ b0

/-- The 16-byte buffer that four 4-byte groups make, the first at offset 0 (R7). -/
def bytes16 (q0 q1 q2 q3 : LbaBuf) : EntryBuf := q3 ++ q2 ++ q1 ++ q0

/-- The 512 bytes of a sector from its regions in offset order: bootstrap, slots 0 to 3, the two
signature bytes (R33, R45). -/
def sectorBytes (boot : BootBuf) (e : Slots EntryBuf) (g0 g1 : Byte) : SectorBuf :=
  g1 ++ g0 ++ e.s3 ++ e.s2 ++ e.s1 ++ e.s0 ++ boot

/-- `le32(b)` of four bytes, the lowest offset least significant: `b0 | (b1 << 8) | (b2 << 16) |
(b3 << 24)`, each byte widened first (R8, R27, R73, R79). -/
def le32 (b0 b1 b2 b3 : Byte) : BitVec 32 :=
  b0.setWidth 32 ||| (b1.setWidth 32 <<< 8) ||| (b2.setWidth 32 <<< 16) |||
    (b3.setWidth 32 <<< 24)

/-- `bytes_le32(v)`: byte `i` is `v[8i+7:8i]` (R8, R27, R72). -/
def bytesLe32 (v : BitVec 32) : LbaBuf :=
  bytes4 (v.extractLsb' 0 8) (v.extractLsb' 8 8) (v.extractLsb' 16 8) (v.extractLsb' 24 8)

/-! ## Failures -/

/-- The two failures, each with what its response reports beside the code (R112, R113, R114). -/
inductive Failure where
  /-- Raised by `LBA_UNPACK` alone; the host gets `avail` back on `remain` (R113). -/
  | truncatedInput (avail : BitVec 10)
  /-- Raised by `MBR_DECODE` alone (R114). -/
  | invalidSignature

/-- The response of a transaction that ends in a failure: `err` is the code, the companion flag is
set (`trunc` = 1, or `sig_ok` = 0), `remain` = `avail`, every other output all-zero bits (R115,
R119; filler, assumption 10). There is no state to change, nothing to save and nothing to return from (R119, R121). -/
def raise : Failure → Outputs
  | .truncatedInput avail =>
    { Outputs.zero with
      err := .truncatedInput
      lbaUnpacker := { value := 0, consumed := 0, remain := avail, trunc := true } }
  | .invalidSignature => { Outputs.zero with err := .invalidSignature }

/-! ## Which outputs a line hands to the host -/

/-- The output ports of `SECTOR_decoder` for slot `k` (R21). -/
def slotPorts (k : Fin 4) : List OutPort := .slot_pe_b k :: EntryPort.all.map (.slot k)

/-- The output ports in a line's response: those of the selected operation and `err` (R21, R50), or
for a pseudo-operation its result (R53, R58 to R64, R105, R106) and `err`, which is in every response
(R50; DEDUCED, assumption 7). -/
def resultPorts : Instr → List OutPort
  | .chsEmpty => [.chs_out_b, .err]
  | .chsUnpack _ => [.cyl, .head, .sec, .err]
  | .chsPack _ _ _ _ _ _ _ => [.chs_out_b, .err]
  | .lbaEmpty => [.lba_out_b, .packer_value, .err]
  | .lbaUnpack _ _ => [.value, .consumed, .remain, .trunc, .err]
  | .lbaPack _ => [.lba_out_b, .err]
  | .stClassify _ => [.st_class, .err]
  | .tyClassify _ => [.type_known, .err]
  | .peEmpty => [.pe_out_b, .err]
  | .peDecode _ => EntryPort.all.map .entry ++ [.err]
  | .peEncode _ => [.pe_out_b, .err]
  | .mbrDecode _ =>
    [.sig_ok, .err, .boot_out_b] ++ slotPorts 0 ++ slotPorts 1 ++ slotPorts 2 ++ slotPorts 3
  | .mbrEncode _ _ _ => [.mbr_out_b, .err]
  | .reservedD => []
  | .reservedE => []
  | .reservedF => []
  | .getCyl _ => [.cyl, .err]
  | .getHead _ => [.head, .err]
  | .getSec _ => [.sec, .err]
  | .chsEncode _ _ _ => [.chs_out_b, .err]
  | .chsSetcyl _ _ => [.chs_out_b, .err]
  | .chsSethead _ _ => [.chs_out_b, .err]
  | .chsSetsec _ _ => [.chs_out_b, .err]
  | .mbrBuild _ => [.mbr_out_b, .err]
  | .mbrUpdate _ _ => [.mbr_out_b, .err]

/-! ## Performing a transaction -/

/-- The state while the request of line `i` is presented and its response is `o` (R50): the host
drives the line's inputs, the block drives every output wire. Nothing else changes. -/
def State.answered (s : State) (i : Instr) (o : Outputs) : State :=
  { s with inputs := drive i s.inputs, outputs := o, results := resultPorts i }

/-- One transaction: from request to response in one atomic step (R32, R50, R136). -/
def transact (i : Instr) (o : Outputs) (s : State) : Host.Outcome State Fault Refusal :=
  .next (s.answered i o)

/-- A request with a reserved code has no response: the model refuses it (R51). -/
def refuseReserved (op : BitVec 4) : Host.Outcome State Fault Refusal :=
  .refused (.reservedOpcode op)

/-- The state with the first line taken off the script, for the host to present it. -/
def State.takeLine (s : State) : State := { s with script := s.script.tail }

/-- The state with `w` as the line the host presents next. -/
def State.withLine (s : State) (w : ReqWord) : State := { s with script := w :: s.script }

/-- The transaction the next step performs: the first line of the script, or, when the host has no
further line, the request held on the wires (R50, R136). -/
def nextInstr (s : State) : Instr :=
  match s.script with
  | [] => selected s.inputs
  | w :: _ => decode w

end Sys2Proof.Machine
end

