-- ==== Sys2Proof/Machine/Reserved.lean ====
section
/-! DEFINITION. The reserved operation codes (`30_encoding.md` R51). "They are not hints, they do not
act as a no-operation": a model refuses them. -/

namespace Sys2Proof.Machine

/-- Reserved code 0xD: no response (R51). -/
def execReservedD (_s : State) : Host.Outcome State Fault Refusal := refuseReserved 0xD

/-- Reserved code 0xE: no response (R51). -/
def execReservedE (_s : State) : Host.Outcome State Fault Refusal := refuseReserved 0xE

/-- Reserved code 0xF: no response (R51). -/
def execReservedF (_s : State) : Host.Outcome State Fault Refusal := refuseReserved 0xF

end Sys2Proof.Machine
end

