-- ==== Sys2Proof/Machine/Operands.lean ====
section
/-! DEFINITION. Operands taken out of the formats and put into them (`30_encoding.md` R46 to R48,
`40_chs.md` R56, R57, R70), and output ports read as numbers. -/

namespace Sys2Proof.Machine

/-! ## The sub-fields of a packed CHS value -/

/-- `((b1 & 0xC0) << 2) | b2` in 10 bits, `b1` widened before the shift (R46, R56, R70). -/
def cylinderOf (b1 b2 : Byte) : BitVec 10 :=
  ((b1 &&& Config.maskCylHi).setWidth 10 <<< 2) ||| b2.setWidth 10

/-- `b1 & 0x3F`, 6 bits (R47, R56). -/
def sectorOf (b1 : Byte) : BitVec 6 := (b1 &&& Config.maskSector).setWidth 6

/-- `(c >> 2) & 0xC0`: bits 9:8 of the cylinder in bits 7:6 of a byte (R57). -/
def cylHighBits (c : BitVec 16) : Byte := ((c >>> 2) &&& 0x00C0#16).setWidth 8

/-- `c & 0xFF`: bits 7:0 of the cylinder (R57). -/
def cylLowByte (c : BitVec 16) : Byte := (c &&& 0x00FF#16).setWidth 8

/-- Byte 1 of a packed CHS value from a cylinder and a sector; bits above the fields are dropped
(R48, R61). -/
def chsByte1 (c : BitVec 16) (s : Byte) : Byte := cylHighBits c ||| (s &&& Config.maskSector)

/-! ## Codes and output ports as numbers -/

/-- A flag on a 1-bit port. -/
def bitVal (b : Bool) : Nat := b.toNat

/-- The code on `err[1:0]` (R115). -/
def Err.code : Err → BitVec 2
  | .noFailure => 0
  | .truncatedInput => 1
  | .invalidSignature => 2

/-- The code on `st_class[1:0]` (R80). -/
def StClass.code : StClass → BitVec 2
  | .notBootable => 0
  | .bootable => 1
  | .invalid => 2

/-- The width of an entry output port (R21). -/
def EntryPort.width : EntryPort → Nat
  | .status => 8
  | .st_class => 2
  | .chs_first_b => 24
  | .cyl_first => 10
  | .head_first => 8
  | .sec_first => 6
  | .ptype => 8
  | .type_known => 1
  | .chs_last_b => 24
  | .cyl_last => 10
  | .head_last => 8
  | .sec_last => 6
  | .lba_first => 32
  | .lba_length => 32
  | .unused => 1

/-- The width of an output port (R21). -/
def OutPort.width : OutPort → Nat
  | .err => 2
  | .chs_out_b => 24
  | .cyl => 10
  | .head => 8
  | .sec => 6
  | .lba_out_b => 32
  | .packer_value => 32
  | .value => 32
  | .consumed => 3
  | .remain => 10
  | .trunc => 1
  | .st_class => 2
  | .type_known => 1
  | .pe_out_b => 128
  | .entry p => p.width
  | .sig_ok => 1
  | .boot_out_b => 3568
  | .slot_pe_b _ => 128
  | .slot _ p => p.width
  | .mbr_out_b => 4096

/-- The unsigned number on an entry output port. -/
def EntryOut.read (e : EntryOut) : EntryPort → Nat
  | .status => e.status.toNat
  | .st_class => e.st_class.code.toNat
  | .chs_first_b => e.chs_first_b.toNat
  | .cyl_first => e.cyl_first.toNat
  | .head_first => e.head_first.toNat
  | .sec_first => e.sec_first.toNat
  | .ptype => e.ptype.toNat
  | .type_known => bitVal e.type_known
  | .chs_last_b => e.chs_last_b.toNat
  | .cyl_last => e.cyl_last.toNat
  | .head_last => e.head_last.toNat
  | .sec_last => e.sec_last.toNat
  | .lba_first => e.lba_first.toNat
  | .lba_length => e.lba_length.toNat
  | .unused => bitVal e.unused

/-- The unsigned number on an output port (R7: all numbers are unsigned). -/
def Outputs.read (o : Outputs) : OutPort → Nat
  | .err => o.err.code.toNat
  | .chs_out_b => o.chsPacker.chs_out_b.toNat
  | .cyl => o.chsUnpacker.cyl.toNat
  | .head => o.chsUnpacker.head.toNat
  | .sec => o.chsUnpacker.sec.toNat
  | .lba_out_b => o.lbaPacker.lba_out_b.toNat
  | .packer_value => o.lbaPacker.value.toNat
  | .value => o.lbaUnpacker.value.toNat
  | .consumed => o.lbaUnpacker.consumed.toNat
  | .remain => o.lbaUnpacker.remain.toNat
  | .trunc => bitVal o.lbaUnpacker.trunc
  | .st_class => o.enumClassifier.st_class.code.toNat
  | .type_known => bitVal o.enumClassifier.type_known
  | .pe_out_b => o.partitionEncoder.pe_out_b.toNat
  | .entry p => o.partitionDecoder.read p
  | .sig_ok => bitVal o.sectorDecoder.sig_ok
  | .boot_out_b => o.sectorDecoder.boot_out_b.toNat
  | .slot_pe_b k => (o.sectorDecoder.slots.get k).pe_b.toNat
  | .slot k p => (o.sectorDecoder.slots.get k).entry.read p
  | .mbr_out_b => o.sectorEncoder.mbr_out_b.toNat

/-- The `err` output of unit `u` while the operation `op` is selected: the response's code for the
unit that performs it, 0 for every other unit (R13, R21, R50; assumption 11). -/
def unitErr (op : BitVec 4) (o : Outputs) (u : UnitName) : Err :=
  if unitOf op = some u then o.err else .noFailure

/-- The values a line can hand to the host: each of its results with the number on its port (R50, R54). -/
def State.received (s : State) : List (OutPort × Nat) :=
  s.results.map fun p => (p, s.outputs.read p)

end Sys2Proof.Machine
end

