-- ==== Sys2Proof/Machine/Flags.lean ====
section
/-! DEFINITION. The outputs that play the role of flags (`10_state.md` R13): each is a function of its
own transaction's inputs and none persists. -/

namespace Sys2Proof.Machine

/-- `st_class`: the class of a status byte, the whole byte compared (R42, R80). -/
def stClassOf (x : Byte) : StClass :=
  if x = 0x00#8 then .notBootable else if x = 0x80#8 then .bootable else .invalid

/-- `type_known`: is the byte in `TYPE_TABLE` (R83, R84)? -/
def typeKnown (x : Byte) : Bool := Config.typeTableWith Config.furtherTypes x

/-- `trunc`: were fewer than 4 bytes available (R73)? -/
def truncated (avail : BitVec 10) : Bool := !(4#10 ≤ avail)

/-- `sig_ok`: two whole-byte comparisons, 0x55 at the lower offset (R101). -/
def signatureOk (b : SectorBuf) : Bool :=
  byteAt b Config.sigOffset == Config.sig0 && byteAt b (Config.sigOffset + 1) == Config.sig1

/-- `unused`: type byte 0x00 and `lba_length` 0; nothing else plays a part (R92). -/
def unusedSlot (ptype : Byte) (lbaLength : BitVec 32) : Bool :=
  ptype == 0x00#8 && lbaLength == 0#32

end Sys2Proof.Machine
end

