-- ==== Sys2Proof/Machine/Chs.lean ====
section
/-! DEFINITION. The CHS address operations and their pseudo-operations (`40_chs.md`). -/

namespace Sys2Proof.Machine

/-- What `CHS_unpacker` computes (R56). -/
def unpackChs (b : ChsBuf) : ChsUnpackerOut where
  cyl := cylinderOf (byteAt b 1) (byteAt b 2)
  head := byteAt b 0
  sec := sectorOf (byteAt b 1)

/-- What `CHS_packer` computes under its three enables (R57). -/
def packChs (p : ChsPackerIn) : ChsBuf :=
  let hi := if p.we_cyl then cylHighBits p.cyl_in else byteAt p.base_b 1 &&& Config.maskCylHi
  let lo := if p.we_sec then p.sec_in &&& Config.maskSector
    else byteAt p.base_b 1 &&& Config.maskSector
  bytes3 (if p.we_head then p.head_in else byteAt p.base_b 0) (hi ||| lo)
    (if p.we_cyl then cylLowByte p.cyl_in else byteAt p.base_b 2)

/-- The response of `CHS_UNPACK`. -/
def chsUnpackOutputs (b : ChsBuf) : Outputs := { Outputs.zero with chsUnpacker := unpackChs b }

/-- The response of `CHS_PACK`. -/
def chsPackOutputs (p : ChsPackerIn) : Outputs := { Outputs.zero with chsPacker := ⟨packChs p⟩ }

/-- `CHS_EMPTY`: the constant `[00 00 00]` (R55). -/
def execChsEmpty (s : State) : Host.Outcome State Fault Refusal :=
  transact .chsEmpty { Outputs.zero with chsPacker := ⟨bytes3 0x00 0x00 0x00⟩ } s

/-- `CHS_UNPACK` (R56). -/
def execChsUnpack (chs_b : ChsBuf) (s : State) : Host.Outcome State Fault Refusal :=
  transact (.chsUnpack chs_b) (chsUnpackOutputs chs_b) s

/-- `CHS_PACK` (R57). -/
def execChsPack (base_b : ChsBuf) (we_cyl we_head we_sec : Bool) (cyl_in : BitVec 16)
    (head_in sec_in : Byte) (s : State) : Host.Outcome State Fault Refusal :=
  transact (.chsPack base_b we_cyl we_head we_sec cyl_in head_in sec_in)
    (chsPackOutputs ⟨base_b, we_cyl, we_head, we_sec, cyl_in, head_in, sec_in⟩) s

/-- `GET_CYL`: `CHS_UNPACK` with `head` and `sec` discarded (R58). -/
def execGetCyl (chs_b : ChsBuf) (s : State) : Host.Outcome State Fault Refusal :=
  transact (.getCyl chs_b) (chsUnpackOutputs chs_b) s

/-- `GET_HEAD`: `CHS_UNPACK` with `cyl` and `sec` discarded (R59). -/
def execGetHead (chs_b : ChsBuf) (s : State) : Host.Outcome State Fault Refusal :=
  transact (.getHead chs_b) (chsUnpackOutputs chs_b) s

/-- `GET_SEC`: `CHS_UNPACK` with `cyl` and `head` discarded (R60). -/
def execGetSec (chs_b : ChsBuf) (s : State) : Host.Outcome State Fault Refusal :=
  transact (.getSec chs_b) (chsUnpackOutputs chs_b) s

/-- `CHS_ENCODE`: `CHS_PACK` of base zero with all three enables 1 (R61). -/
def execChsEncode (cyl_in : BitVec 16) (head_in sec_in : Byte) (s : State) :
    Host.Outcome State Fault Refusal :=
  transact (.chsEncode cyl_in head_in sec_in)
    (chsPackOutputs ⟨0, true, true, true, cyl_in, head_in, sec_in⟩) s

/-- `CHS_SETCYL`: `CHS_PACK` with `we_cyl` alone (R62). -/
def execChsSetcyl (base_b : ChsBuf) (cyl_in : BitVec 16) (s : State) :
    Host.Outcome State Fault Refusal :=
  transact (.chsSetcyl base_b cyl_in) (chsPackOutputs ⟨base_b, true, false, false, cyl_in, 0, 0⟩) s

/-- `CHS_SETHEAD`: `CHS_PACK` with `we_head` alone (R63). -/
def execChsSethead (base_b : ChsBuf) (head_in : Byte) (s : State) :
    Host.Outcome State Fault Refusal :=
  transact (.chsSethead base_b head_in) (chsPackOutputs ⟨base_b, false, true, false, 0, head_in, 0⟩) s

/-- `CHS_SETSEC`: `CHS_PACK` with `we_sec` alone (R64). -/
def execChsSetsec (base_b : ChsBuf) (sec_in : Byte) (s : State) :
    Host.Outcome State Fault Refusal :=
  transact (.chsSetsec base_b sec_in) (chsPackOutputs ⟨base_b, false, false, true, 0, 0, sec_in⟩) s

end Sys2Proof.Machine
end

