-- ==== Sys2Proof/Machine/Enums.lean ====
section
/-! DEFINITION. Status and type classification (`42_enums.md`), and the document's abstract types for
the two bytes (R17, R18, R82, R87). -/

namespace Sys2Proof.Machine

/-- `ST_CLASSIFY` (R80). -/
def execStClassify (status_in : Byte) (s : State) : Host.Outcome State Fault Refusal :=
  transact (.stClassify status_in)
    { Outputs.zero with enumClassifier := ⟨stClassOf status_in, false⟩ } s

/-- `TY_CLASSIFY` (R83). -/
def execTyClassify (ptype_in : Byte) (s : State) : Host.Outcome State Fault Refusal :=
  transact (.tyClassify ptype_in)
    { Outputs.zero with enumClassifier := ⟨.notBootable, typeKnown ptype_in⟩ } s

/-- `PartitionStatus` (R17): the values `Invalid(0x00)` and `Invalid(0x80)`, which no byte gives,
cannot be written (R82, U12). -/
inductive PartitionStatus where
  | notBootable
  | bootable
  | invalid (x : Byte) (ne00 : x ≠ 0x00#8) (ne80 : x ≠ 0x80#8)
deriving DecidableEq, Repr

/-- The abstract status of a byte (R82). -/
def statusOfByte (x : Byte) : PartitionStatus :=
  if h0 : x = 0x00#8 then .notBootable
  else if h1 : x = 0x80#8 then .bootable
  else .invalid x h0 h1

/-- The byte of an abstract status (R82). -/
def byteOfStatus : PartitionStatus → Byte
  | .notBootable => 0x00
  | .bootable => 0x80
  | .invalid x _ _ => x

/-- The class of an abstract status (R17, R80). -/
def classOfStatus : PartitionStatus → StClass
  | .notBootable => .notBootable
  | .bootable => .bootable
  | .invalid _ _ _ => .invalid

/-- `PartitionType` (R18): a recognized code, or a code outside the table carried as it is. On wires
the tag is `type_known` and the payload the byte (R87).
DESIGN CHOICE (assumption 22): the table is open (R84), so the recognized codes share one case that
carries the code, and the type also holds values that no byte gives under a table, such as
`recognized x` for an `x` outside it and `unrecognized 0x07`. R82 and U12 bar such values for the status
only; R18 and R87 say nothing of them here. No operation takes or gives a value of this type. -/
inductive PartitionType where
  | recognized (code : Byte)
  | unrecognized (code : Byte)
deriving DecidableEq, Repr

/-- The abstract type of a byte, for a table with the further members `more` (R83, R84). Only values
whose tag agrees with the table arise (`typeOfByte_reaches_iff`; assumption 22). -/
def typeOfByte (more : Byte → Bool) (x : Byte) : PartitionType :=
  if Config.typeTableWith more x then .recognized x else .unrecognized x

/-- The byte of an abstract type: no information is lost (R85, R87). -/
def byteOfType : PartitionType → Byte
  | .recognized x => x
  | .unrecognized x => x

end Sys2Proof.Machine
end

