-- ==== Sys2Proof/Machine/Lba.lean ====
section
/-! DEFINITION. The LBA address operations (`41_lba.md`). -/

namespace Sys2Proof.Machine

/-- The response of `LBA_UNPACK`: the little-endian value when `avail >= 4`, else `TruncatedInput`,
which takes nothing from `lba_b` (R73, R74, R75). -/
def lbaUnpackOutputs (b : LbaBuf) (avail : BitVec 10) : Outputs :=
  if truncated avail then raise (.truncatedInput avail)
  else
    { Outputs.zero with
      lbaUnpacker :=
        { value := le32 (byteAt b 0) (byteAt b 1) (byteAt b 2) (byteAt b 3)
          consumed := 4
          remain := avail - 4
          trunc := false } }

/-- `LBA_EMPTY`: the empty value as bytes and as a number (R71). -/
def execLbaEmpty (s : State) : Host.Outcome State Fault Refusal :=
  transact .lbaEmpty { Outputs.zero with lbaPacker := ⟨bytes4 0x00 0x00 0x00 0x00, 0⟩ } s

/-- `LBA_UNPACK` (R73); on fewer than 4 bytes it ends in `TruncatedInput` (R113). `avail` is taken as
given (R129; DEDUCED, assumption 14). -/
def execLbaUnpack (lba_b : LbaBuf) (avail : BitVec 10) (s : State) :
    Host.Outcome State Fault Refusal :=
  transact (.lbaUnpack lba_b avail) (lbaUnpackOutputs lba_b avail) s

/-- `LBA_PACK` (R72). -/
def execLbaPack (value_in : BitVec 32) (s : State) : Host.Outcome State Fault Refusal :=
  transact (.lbaPack value_in) { Outputs.zero with lbaPacker := ⟨bytesLe32 value_in, 0⟩ } s

end Sys2Proof.Machine
end

