-- ==== Sys2Proof/Machine/Entry.lean ====
section
/-! DEFINITION. The partition entry operations (`43_partition_entry.md`), from their pseudocode (R89,
R91) and, beside it, from the structure of the two units (R90, R95). -/

namespace Sys2Proof.Machine

/-- The fifteen outputs of `PE_DECODE` on `B`, for a type table with the further members `more`
(R89). -/
def decodeEntryWith (more : Byte → Bool) (B : EntryBuf) : EntryOut :=
  let lbaLength := le32 (byteAt B 12) (byteAt B 13) (byteAt B 14) (byteAt B 15)
  { status := byteAt B 0
    st_class := stClassOf (byteAt B 0)
    chs_first_b := memRead B 1 3
    cyl_first := cylinderOf (byteAt B 2) (byteAt B 3)
    head_first := byteAt B 1
    sec_first := sectorOf (byteAt B 2)
    ptype := byteAt B 4
    type_known := Config.typeTableWith more (byteAt B 4)
    chs_last_b := memRead B 5 3
    cyl_last := cylinderOf (byteAt B 6) (byteAt B 7)
    head_last := byteAt B 5
    sec_last := sectorOf (byteAt B 6)
    lba_first := le32 (byteAt B 8) (byteAt B 9) (byteAt B 10) (byteAt B 11)
    lba_length := lbaLength
    unused := unusedSlot (byteAt B 4) lbaLength }

/-- The fifteen outputs of `PE_DECODE` (R89). -/
def decodeEntry (B : EntryBuf) : EntryOut := decodeEntryWith Config.furtherTypes B

/-- The sixteen bytes of `PE_ENCODE` (R91): the entry checks nothing and drops the bits of a cylinder
or sector above its field. -/
def encodeEntry (e : EntryIn) : EntryBuf :=
  bytes16
    (bytes4 e.status_in e.head_first_in (chsByte1 e.cyl_first_in e.sec_first_in)
      (cylLowByte e.cyl_first_in))
    (bytes4 e.ptype_in e.head_last_in (chsByte1 e.cyl_last_in e.sec_last_in)
      (cylLowByte e.cyl_last_in))
    (bytesLe32 e.lba_first_in)
    (bytesLe32 e.lba_length_in)

/-- The decoded fields put on the encoder's ports, the narrower ones zero-extended (R96). -/
def fieldsOf (d : EntryOut) : EntryIn where
  status_in := d.status
  cyl_first_in := d.cyl_first.setWidth 16
  head_first_in := d.head_first
  sec_first_in := d.sec_first.setWidth 8
  ptype_in := d.ptype
  cyl_last_in := d.cyl_last.setWidth 16
  head_last_in := d.head_last
  sec_last_in := d.sec_last.setWidth 8
  lba_first_in := d.lba_first
  lba_length_in := d.lba_length

/-- `PE_EMPTY`: sixteen zero bytes (R88). -/
def execPeEmpty (s : State) : Host.Outcome State Fault Refusal :=
  transact .peEmpty { Outputs.zero with partitionEncoder := ⟨bytes16 0 0 0 0⟩ } s

/-- `PE_DECODE` (R89); it never fails (R94). -/
def execPeDecode (pe_b : EntryBuf) (s : State) : Host.Outcome State Fault Refusal :=
  transact (.peDecode pe_b) { Outputs.zero with partitionDecoder := decodeEntry pe_b } s

/-- `PE_ENCODE` (R91). -/
def execPeEncode (entry : EntryIn) (s : State) : Host.Outcome State Fault Refusal :=
  transact (.peEncode entry) { Outputs.zero with partitionEncoder := ⟨encodeEntry entry⟩ } s

/-! ## The structure of the two units -/

/-- The unit `MBR_partition_decoder` as R90 builds it: a classifier on bytes 0 and 4, two
`CHS_unpacker`s, and two `LBA_unpacker`s in a chain, the first with `avail` tied to 8, the second
with `avail` wired to the first one's `remain`. -/
def decodeEntryByUnits (more : Byte → Bool) (B : EntryBuf) : EntryOut :=
  let first := unpackChs (memRead B 1 3)
  let last := unpackChs (memRead B 5 3)
  let lba1 := (lbaUnpackOutputs (memRead B 8 4) 8).lbaUnpacker
  let lba2 := (lbaUnpackOutputs (memRead B 12 4) lba1.remain).lbaUnpacker
  { status := memRead B 0 1
    st_class := stClassOf (memRead B 0 1)
    chs_first_b := memRead B 1 3
    cyl_first := first.cyl
    head_first := first.head
    sec_first := first.sec
    ptype := memRead B 4 1
    type_known := Config.typeTableWith more (memRead B 4 1)
    chs_last_b := memRead B 5 3
    cyl_last := last.cyl
    head_last := last.head
    sec_last := last.sec
    lba_first := lba1.value
    lba_length := lba2.value
    unused := unusedSlot (memRead B 4 1) lba2.value }

/-- The unit `MBR_partition_encoder` as R95 builds it: two `CHS_packer`s with base zero and every
enable 1, two `LBA_packer`s, and bytes 0 and 4 passed through. -/
def encodeEntryByUnits (e : EntryIn) : EntryBuf :=
  let first := packChs ⟨0, true, true, true, e.cyl_first_in, e.head_first_in, e.sec_first_in⟩
  let last := packChs ⟨0, true, true, true, e.cyl_last_in, e.head_last_in, e.sec_last_in⟩
  bytesLe32 e.lba_length_in ++ bytesLe32 e.lba_first_in ++ last ++ e.ptype_in ++ first ++
    e.status_in

/-! ## The document's aggregate -/

/-- `PartitionEntry` (R19): the type field is the raw byte, and the two CHS values are raw bytes. -/
structure PartitionEntry where
  status : PartitionStatus
  chs_first : ChsBuf
  partition_type : Byte
  chs_last : ChsBuf
  lba_first : BitVec 32
  lba_length : BitVec 32
deriving DecidableEq, Repr

/-- The document's `decode(16-byte slice)` (R19, R89). -/
def entryOfBytes (B : EntryBuf) : PartitionEntry :=
  let d := decodeEntry B
  ⟨statusOfByte d.status, d.chs_first_b, d.ptype, d.chs_last_b, d.lba_first, d.lba_length⟩

/-- The document's `encode(entry)` (R19, R91), through the sub-fields of the two CHS values. -/
def bytesOfEntry (e : PartitionEntry) : EntryBuf :=
  let first := unpackChs e.chs_first
  let last := unpackChs e.chs_last
  encodeEntry
    { status_in := byteOfStatus e.status
      cyl_first_in := first.cyl.setWidth 16
      head_first_in := first.head
      sec_first_in := first.sec.setWidth 8
      ptype_in := e.partition_type
      cyl_last_in := last.cyl.setWidth 16
      head_last_in := last.head
      sec_last_in := last.sec.setWidth 8
      lba_first_in := e.lba_first
      lba_length_in := e.lba_length }

/-- The document's `empty()`: status NotBootable, zeroed CHS, type 0x00, zeroed LBA pair (R88). -/
def emptyEntry : PartitionEntry := ⟨.notBootable, 0, 0x00, 0, 0, 0⟩

end Sys2Proof.Machine
end

