-- ==== Sys2Proof/Machine/Sector.lean ====
section
/-! DEFINITION. The sector container operations and their pseudo-operations (`44_sector.md`). -/

namespace Sys2Proof.Machine

/-- The sixteen bytes of slot `k`: `MemRead(B, 446 + 16k, 16)` (R26, R33, R100). -/
def slotBytes (B : SectorBuf) (k : Nat) : EntryBuf :=
  memRead B (Config.ptOffset + Config.peBytes * k) 16

/-- The outputs of `SECTOR_decoder` for slot `k`, for a type table with the further members `more`
(R100). -/
def decodeSlotWith (more : Byte → Bool) (B : SectorBuf) (k : Nat) : SlotOut :=
  ⟨slotBytes B k, decodeEntryWith more (slotBytes B k)⟩

/-- The outputs of `SECTOR_decoder` on a sector that has the signature (R100). -/
def decodeSectorWith (more : Byte → Bool) (B : SectorBuf) : SectorDecoderOut where
  sig_ok := true
  boot_out_b := memRead B 0 446
  slots := ⟨decodeSlotWith more B 0, decodeSlotWith more B 1, decodeSlotWith more B 2,
    decodeSlotWith more B 3⟩

/-- The response of `MBR_DECODE`: four entries and the bootstrap bytes, or `InvalidSignature` (R100,
R101). -/
def mbrDecodeOutputs (B : SectorBuf) : Outputs :=
  if signatureOk B then
    { Outputs.zero with sectorDecoder := decodeSectorWith Config.furtherTypes B }
  else raise .invalidSignature

/-- The 512 bytes of `MBR_ENCODE`: the bootstrap bytes or zeros, the four encoded entries, the
signature always (R103, R104). -/
def encodeSector (keep : Bool) (boot : BootBuf) (entries : Slots EntryIn) : SectorBuf :=
  sectorBytes (if keep then boot else 0) (entries.map encodeEntry) Config.sig0 Config.sig1

/-- The response of `MBR_ENCODE`. -/
def mbrEncodeOutputs (keep : Bool) (boot : BootBuf) (entries : Slots EntryIn) : Outputs :=
  { Outputs.zero with sectorEncoder := ⟨encodeSector keep boot entries⟩ }

/-- `MBR_DECODE` (R100); without the signature it ends in `InvalidSignature` (R114). -/
def execMbrDecode (mbr_b : SectorBuf) (s : State) : Host.Outcome State Fault Refusal :=
  transact (.mbrDecode mbr_b) (mbrDecodeOutputs mbr_b) s

/-- `MBR_ENCODE` (R103). -/
def execMbrEncode (boot_keep : Bool) (boot_in_b : BootBuf) (entries : Slots EntryIn) (s : State) :
    Host.Outcome State Fault Refusal :=
  transact (.mbrEncode boot_keep boot_in_b entries) (mbrEncodeOutputs boot_keep boot_in_b entries) s

/-- `MBR_BUILD`: `MBR_ENCODE` with `boot_keep` = 0 (R105). -/
def execMbrBuild (entries : Slots EntryIn) (s : State) : Host.Outcome State Fault Refusal :=
  transact (.mbrBuild entries) (mbrEncodeOutputs false 0 entries) s

/-- `MBR_UPDATE`: `MBR_ENCODE` with `boot_keep` = 1 (R106). -/
def execMbrUpdate (boot_in_b : BootBuf) (entries : Slots EntryIn) (s : State) :
    Host.Outcome State Fault Refusal :=
  transact (.mbrUpdate boot_in_b entries) (mbrEncodeOutputs true boot_in_b entries) s

/-! ## The structure of the two units -/

/-- `SECTOR_decoder` as R110 builds it: two byte comparators, four `MBR_partition_decoder`s, and a
gate that forces every output to zero when `sig_ok` = 0. -/
def sectorDecoderByUnits (more : Byte → Bool) (B : SectorBuf) : SectorDecoderOut :=
  let gate := (memRead B 510 1 == Config.sig0) && (memRead B 511 1 == Config.sig1)
  let slot := fun k =>
    let e : EntryBuf := memRead B (446 + 16 * k) 16
    if gate then SlotOut.mk e (decodeEntryByUnits more e) else ⟨0, EntryOut.zero⟩
  { sig_ok := gate
    boot_out_b := if gate then memRead B 0 446 else 0
    slots := ⟨slot 0, slot 1, slot 2, slot 3⟩ }

/-- `SECTOR_encoder` as R110 builds it: four `MBR_partition_encoder`s, a two-way selector driven by
`boot_keep`, and the two constant bytes. -/
def sectorEncoderByUnits (p : SectorEncoderIn) : SectorBuf :=
  sectorBytes (bif p.boot_keep then p.boot_in_b else 0) (p.entries.map encodeEntryByUnits)
    Config.sig0 Config.sig1

end Sys2Proof.Machine
end

