-- ==== Sys2Proof/Machine/Dispatch.lean ====
section
/-! DEFINITION. Which meaning each instruction has: one arm per row of `spec/opcode_table.json`. -/

namespace Sys2Proof.Machine

def exec (i : Instr) (s : State) : Host.Outcome State Fault Refusal :=
  match i with
  | .chsEmpty => Sys2Proof.Machine.execChsEmpty s
  | .chsUnpack b => Sys2Proof.Machine.execChsUnpack b s
  | .chsPack b wc wh ws c h n => Sys2Proof.Machine.execChsPack b wc wh ws c h n s
  | .lbaEmpty => Sys2Proof.Machine.execLbaEmpty s
  | .lbaUnpack b n => Sys2Proof.Machine.execLbaUnpack b n s
  | .lbaPack v => Sys2Proof.Machine.execLbaPack v s
  | .stClassify x => Sys2Proof.Machine.execStClassify x s
  | .tyClassify x => Sys2Proof.Machine.execTyClassify x s
  | .peEmpty => Sys2Proof.Machine.execPeEmpty s
  | .peDecode b => Sys2Proof.Machine.execPeDecode b s
  | .peEncode e => Sys2Proof.Machine.execPeEncode e s
  | .mbrDecode b => Sys2Proof.Machine.execMbrDecode b s
  | .mbrEncode k b v => Sys2Proof.Machine.execMbrEncode k b v s
  | .reservedD => Sys2Proof.Machine.execReservedD s
  | .reservedE => Sys2Proof.Machine.execReservedE s
  | .reservedF => Sys2Proof.Machine.execReservedF s
  | .getCyl b => Sys2Proof.Machine.execGetCyl b s
  | .getHead b => Sys2Proof.Machine.execGetHead b s
  | .getSec b => Sys2Proof.Machine.execGetSec b s
  | .chsEncode c h n => Sys2Proof.Machine.execChsEncode c h n s
  | .chsSetcyl b c => Sys2Proof.Machine.execChsSetcyl b c s
  | .chsSethead b h => Sys2Proof.Machine.execChsSethead b h s
  | .chsSetsec b n => Sys2Proof.Machine.execChsSetsec b n s
  | .mbrBuild v => Sys2Proof.Machine.execMbrBuild v s
  | .mbrUpdate b v => Sys2Proof.Machine.execMbrUpdate b v s

end Sys2Proof.Machine
end

