-- ==== Sys2Proof/Machine/Step.lean ====
section
/-! DEFINITION. One step: the host presents its next request and the block answers it (R12, R50). -/

namespace Sys2Proof.Machine

/-- One transaction. The request is the first line of the host's script, which the step takes off, or
the request still held on the wires when the script is empty (R50, R136). -/
def step (s : State) : Host.Outcome State Fault Refusal :=
  exec (nextInstr s) s.takeLine

/-- `s` with the line whose low `nbits` bits are `w`, all its other bits zero, as the next line the
host presents. -/
def State.withFetchWord (s : State) (nbits w : Nat) : State :=
  s.withLine (w % 2 ^ nbits)

end Sys2Proof.Machine
end

