-- ==== Sys2Proof/Safety.lean ====
section
/-! DEFINITION. What counts as a safe run, in the terms the statements use. -/

namespace Sys2Proof.Machine

/-- The request names an operation: its code is not reserved, as R51 asks of the host. -/
def unreserved (w : ReqWord) : Bool := decide ((opOf w).toNat ≤ 0xC)

/-- Every request the host will present, and the one it holds, names an operation (R51). -/
def State.issuable (s : State) : Bool :=
  s.script.all unreserved && decide (s.inputs.op.toNat ≤ 0xC)

/-- The response to a transaction, as it is performed right after reset; all zero for a reserved code,
which has none. `Obligations.ResponseIsAFunctionOfTheRequest` says that every state gives the same. -/
def responseTo (i : Instr) : Outputs :=
  match exec i State.reset with
  | .next t => t.outputs
  | .fault r => nomatch r
  | .refused _ => Outputs.zero

/-- The response stands beside its request (R50, R136): the request on the input wires is one that
has a response, and the output wires carry exactly that response. -/
def State.coherent (s : State) : Prop :=
  ∃ t, exec (selected s.inputs) s = .next t ∧ t.outputs = s.outputs

/-- The outputs that play the role of flags agree with `err` and with the selected operation (R13,
R115): `trunc` says `TruncatedInput`, which only `LBA_UNPACK` reports; `InvalidSignature` only
`MBR_DECODE` reports, and then `sig_ok` is 0; `sig_ok` is 1 exactly when `MBR_DECODE` succeeds. -/
def State.flagsAgree (s : State) : Prop :=
  (s.outputs.lbaUnpacker.trunc = true ↔ s.outputs.err = .truncatedInput) ∧
  (s.outputs.err = .truncatedInput → s.inputs.op = 0x4) ∧
  (s.outputs.err = .invalidSignature → s.inputs.op = 0xB) ∧
  (s.outputs.sectorDecoder.sig_ok = true ↔
    s.inputs.op = 0xB ∧ s.outputs.err ≠ .invalidSignature)

/-- The bytes of the entry that belong to the field an output of `PE_DECODE` shows (R89, R99); for
`unused`, the bytes of the two fields it looks at (R92). -/
def EntryPort.ownBytes : EntryPort → List Nat
  | .status => [0]
  | .st_class => [0]
  | .chs_first_b => [1, 2, 3]
  | .cyl_first => [1, 2, 3]
  | .head_first => [1, 2, 3]
  | .sec_first => [1, 2, 3]
  | .ptype => [4]
  | .type_known => [4]
  | .chs_last_b => [5, 6, 7]
  | .cyl_last => [5, 6, 7]
  | .head_last => [5, 6, 7]
  | .sec_last => [5, 6, 7]
  | .lba_first => [8, 9, 10, 11]
  | .lba_length => [12, 13, 14, 15]
  | .unused => [4, 12, 13, 14, 15]

/-- The two entries agree on the one field whose encoding holds byte `k` (R91, R99). -/
def sameEntryFieldAt (k : Nat) (e f : EntryIn) : Prop :=
  if k = 0 then e.status_in = f.status_in
  else if k ≤ 3 then
    e.cyl_first_in = f.cyl_first_in ∧ e.head_first_in = f.head_first_in ∧
      e.sec_first_in = f.sec_first_in
  else if k = 4 then e.ptype_in = f.ptype_in
  else if k ≤ 7 then
    e.cyl_last_in = f.cyl_last_in ∧ e.head_last_in = f.head_last_in ∧
      e.sec_last_in = f.sec_last_in
  else if k ≤ 11 then e.lba_first_in = f.lba_first_in
  else e.lba_length_in = f.lba_length_in

end Sys2Proof.Machine
end

