-- ==== Sys2Proof/Certificates/Slice0/Obligations.lean ====
section
/-! DEFINITION. The statements for the provers. A transaction's whole next state is written out where a
statement gives an instruction's result: every wire not named there is unchanged (inputs) or reads zero
(outputs, R50), and the script is the host's as before. That an input port outside the operation keeps
what it carried is the model's choice (R50 and U13 let it carry anything; assumption 19), and `results`
is the model's own field (assumption 7): no rule is cited for those parts of a statement. `responseTo i` is the response to `i`, the same
in every state (`ResponseIsAFunctionOfTheRequest`). -/

open Sys2Proof Sys2Proof.Machine

/-! ## Lines, codes and steps -/

/-- Decode and encode agree (R49, R53, R54): the line of every well-formed instruction decodes to that
instruction, or for a pseudo-operation to its expansion, with every operand at every value. The bit
places of the operands in a line are the model's choice (assumption 5). -/
def Obligations.DecodeEncode : Prop :=
  ∀ i : Instr, i.wellFormed = true →
    decode (encode i) = i.expand ∧ (i.isCore = true → decode (encode i) = i)

/-- Encode and decode agree the other way (R50, R54): encoding what a line decodes to gives the line
again, less the bits above its input values, which belong to no port of the selected operation. The
bit places are the model's choice (assumption 5). -/
def Obligations.EncodeDecode : Prop :=
  ∀ w : ReqWord, encode (decode w) = w % 2 ^ lineBits (opOf w)

/-- The sixteen codes of R49: `op` alone selects the row, a code names an operation, and has a unit,
exactly up to 0xC, and no line is a pseudo-operation (R54; assumption 16). That `op` is the low four
bits of a line is the model's choice (assumption 5). -/
def Obligations.OpSelectsTheOperation : Prop :=
  ∀ w : ReqWord, (decode w).opcode = opOf w ∧ (decode w).isCore = true ∧
    ((decode w).wellFormed = true ↔ (opOf w).toNat ≤ 0xC) ∧
    ((unitOf (opOf w)).isSome = true ↔ (opOf w).toNat ≤ 0xC)

/-- A few lines written out from R49 and R54: operation code in the low hexadecimal digit, then the
input values in the order of R21 (bit places: the model's choice, assumption 5). -/
def Obligations.LinesReadFromTheSpec : Prop :=
  decode 0x0 = .chsEmpty ∧
  decode 0xFFFFFE1 = .chsUnpack 0xFFFFFE#24 ∧
  decode 0x0F0000F0B414 = .lbaUnpack 0x000F0B41#32 0x0F0#10 ∧
  decode 0x123456785 = .lbaPack 0x12345678#32 ∧
  decode 0x806 = .stClassify 0x80#8 ∧
  decode 0x077 = .tyClassify 0x07#8 ∧
  decode 0x000F0B410000003FFFFFFE07000101809 =
    .peDecode 0x000F0B410000003FFFFFFE0700010180#128 ∧
  decode 0xE = .reservedE

/-- A step performs the transaction of the host's next line, taken off the script, or, when there is
no further line, the one the wires still request (R50, R136; assumption 2). -/
def Obligations.StepRunsTheDecodedLine : Prop :=
  (∀ (s : State) (w : ReqWord) (ws : List ReqWord), s.script = w :: ws →
    step s = exec (decode w) { s with script := ws }) ∧
  (∀ s : State, s.script = [] → step s = exec (selected s.inputs) s)

/-- R51: a request with a reserved code is refused, by its code, whatever else is on the wires (that
the code is a line's low four bits, that a step presents a line, and what the refusal carries:
assumptions 5, 2 and 9). -/
def Obligations.ReservedCodesAreRefused : Prop :=
  (∀ s : State, exec .reservedD s = .refused (.reservedOpcode 0xD) ∧
    exec .reservedE s = .refused (.reservedOpcode 0xE) ∧
    exec .reservedF s = .refused (.reservedOpcode 0xF)) ∧
  (∀ (s : State) (w : ReqWord), 0xD ≤ (opOf w).toNat →
    step (s.withLine w) = .refused (.reservedOpcode (opOf w)))

/-- R53: a pseudo-operation is its operation with some inputs fixed or some outputs ignored. The wires
and the response are those of the expansion, the results are among the expansion's, and a step on its
line performs the expansion. The inputs that a setting makes irrelevant are 0 in the expansion, and the
line's bit places are as they are, by the model's choice (assumptions 6 and 5); that a step presents a
line and takes it off is assumption 2, that the line reads as the expansion is assumption 16; the
results are assumption 7, and that both keep the idle input wires is assumption 19. -/
def Obligations.PseudoOperationIsItsExpansion : Prop :=
  ∀ (i : Instr) (s : State), i.wellFormed = true →
    (∃ t u, exec i s = .next t ∧ exec i.expand s = .next u ∧ t.inputs = u.inputs ∧
      t.outputs = u.outputs ∧ t.script = u.script ∧ ∀ p ∈ t.results, p ∈ u.results) ∧
    step (s.withLine (encode i)) = exec i.expand s

/-! ## CHS -/

/-- R55. Model's own parts: assumptions 7 and 19. -/
def Obligations.ChsEmptyGivesZeroBytes : Prop :=
  ∀ s : State, exec .chsEmpty s = .next
    { s with
      inputs := { s.inputs with op := 0x0 }
      outputs := { Outputs.zero with chsPacker := ⟨0x000000#24⟩ }
      results := [.chs_out_b, .err] }

/-- R56: the cylinder is `[B[1][7:6], B[2]]` in 10 bits, the head byte 0, the sector `B[1][5:0]`.
Model's own parts: assumptions 7 and 19. -/
def Obligations.ChsUnpackGivesTheSubFields : Prop :=
  ∀ (s : State) (b : ChsBuf), exec (.chsUnpack b) s = .next
    { s with
      inputs := { s.inputs with op := 0x1, chsUnpacker := ⟨b⟩ }
      outputs :=
        { Outputs.zero with
          chsUnpacker :=
            { cyl := b.extractLsb' 14 2 ++ b.extractLsb' 16 8
              head := b.extractLsb' 0 8
              sec := b.extractLsb' 8 6 } }
      results := [.cyl, .head, .sec, .err] }

/-- R57: each enable takes its own sub-field from the input, else from the base; the bits of `cyl_in`
above bit 9 and of `sec_in` above bit 5 reach no output.
Model's own parts: assumptions 7 and 19. -/
def Obligations.ChsPackReplacesTheEnabledSubFields : Prop :=
  ∀ (s : State) (base : ChsBuf) (wc wh ws : Bool) (c : BitVec 16) (h n : Byte),
    exec (.chsPack base wc wh ws c h n) s = .next
      { s with
        inputs := { s.inputs with op := 0x2, chsPacker := ⟨base, wc, wh, ws, c, h, n⟩ }
        outputs :=
          { Outputs.zero with
            chsPacker :=
              ⟨(if wc then c.extractLsb' 0 8 else base.extractLsb' 16 8) ++
                ((if wc then c.extractLsb' 8 2 else base.extractLsb' 14 2) ++
                  (if ws then n.extractLsb' 0 6 else base.extractLsb' 8 6)) ++
                (if wh then h else base.extractLsb' 0 8)⟩ }
        results := [.chs_out_b, .err] }

/-- R58, R59, R60: the three accessors perform `CHS_UNPACK` and hand over one result
each, and `err`. Model's own parts: assumptions 7 and 19. -/
def Obligations.AccessorsGiveOneSubField : Prop :=
  ∀ (s : State) (b : ChsBuf),
    let inputs := { s.inputs with op := 0x1, chsUnpacker := ⟨b⟩ }
    let outputs :=
      { Outputs.zero with
        chsUnpacker :=
          { cyl := b.extractLsb' 14 2 ++ b.extractLsb' 16 8
            head := b.extractLsb' 0 8
            sec := b.extractLsb' 8 6 } }
    exec (.getCyl b) s = .next { s with inputs := inputs, outputs := outputs, results := [.cyl, .err] } ∧
    exec (.getHead b) s = .next { s with inputs := inputs, outputs := outputs, results := [.head, .err] } ∧
    exec (.getSec b) s = .next { s with inputs := inputs, outputs := outputs, results := [.sec, .err] }

/-- R61. The base on the wires is `[00 00 00]`. Model's own parts: assumptions 7 and 19. -/
def Obligations.ChsEncodePacksATriple : Prop :=
  ∀ (s : State) (c : BitVec 16) (h n : Byte), exec (.chsEncode c h n) s = .next
    { s with
      inputs := { s.inputs with op := 0x2, chsPacker := ⟨0, true, true, true, c, h, n⟩ }
      outputs :=
        { Outputs.zero with
          chsPacker := ⟨c.extractLsb' 0 8 ++ (c.extractLsb' 8 2 ++ n.extractLsb' 0 6) ++ h⟩ }
      results := [.chs_out_b, .err] }

/-- R62, R63, R64: each setter performs `CHS_PACK` with its own enable alone, replaces its own
sub-field and hands over the new 3 bytes. Whatever stands on an operand whose enable is 0 (`x`, `y`)
is ignored. Model's own parts: assumptions 7 and 19. -/
def Obligations.SettersReplaceOneSubField : Prop :=
  ∀ (s : State) (b : ChsBuf) (c : BitVec 16) (v : Byte),
    (∃ x y, exec (.chsSetcyl b c) s = .next
      { s with
        inputs := { s.inputs with op := 0x2, chsPacker := ⟨b, true, false, false, c, x, y⟩ }
        outputs :=
          { Outputs.zero with
            chsPacker :=
              ⟨c.extractLsb' 0 8 ++ (c.extractLsb' 8 2 ++ b.extractLsb' 8 6) ++
                b.extractLsb' 0 8⟩ }
        results := [.chs_out_b, .err] }) ∧
    (∃ x y, exec (.chsSethead b v) s = .next
      { s with
        inputs := { s.inputs with op := 0x2, chsPacker := ⟨b, false, true, false, x, v, y⟩ }
        outputs := { Outputs.zero with chsPacker := ⟨b.extractLsb' 8 16 ++ v⟩ }
        results := [.chs_out_b, .err] }) ∧
    (∃ x y, exec (.chsSetsec b v) s = .next
      { s with
        inputs := { s.inputs with op := 0x2, chsPacker := ⟨b, false, false, true, x, y, v⟩ }
        outputs :=
          { Outputs.zero with
            chsPacker :=
              ⟨b.extractLsb' 16 8 ++ (b.extractLsb' 14 2 ++ v.extractLsb' 0 6) ++
                b.extractLsb' 0 8⟩ }
        results := [.chs_out_b, .err] })

/-- R65: a bit is written only if the enable of the sub-field that owns it is 1 (head: byte 0; sector:
byte 1 bits 5:0; cylinder: byte 1 bits 7:6 and byte 2), so each setter leaves the other two
accessors unchanged. -/
def Obligations.ChsSubFieldsDoNotOverlap : Prop :=
  (∀ (base : ChsBuf) (wc wh ws : Bool) (c : BitVec 16) (h n : Byte) (j : Nat), j < 24 →
    (if j < 8 then wh else if j < 14 then ws else wc) = false →
    ((responseTo (.chsPack base wc wh ws c h n)).chsPacker.chs_out_b).getLsbD j = base.getLsbD j) ∧
  (∀ (b : ChsBuf) (c : BitVec 16) (v : Byte),
    let cyl := fun x => (responseTo (.getCyl x)).chsUnpacker.cyl
    let head := fun x => (responseTo (.getHead x)).chsUnpacker.head
    let sec := fun x => (responseTo (.getSec x)).chsUnpacker.sec
    let afterCyl := (responseTo (.chsSetcyl b c)).chsPacker.chs_out_b
    let afterHead := (responseTo (.chsSethead b v)).chsPacker.chs_out_b
    let afterSec := (responseTo (.chsSetsec b v)).chsPacker.chs_out_b
    sec afterCyl = sec b ∧ head afterCyl = head b ∧
    cyl afterSec = cyl b ∧ head afterSec = head b ∧
    cyl afterHead = cyl b ∧ sec afterHead = sec b)

/-- R66: what a setter wrote reads back, reduced to the field. -/
def Obligations.ChsSettersReadBack : Prop :=
  ∀ (b : ChsBuf) (c : BitVec 16) (v : Byte),
    (responseTo (.getCyl (responseTo (.chsSetcyl b c)).chsPacker.chs_out_b)).chsUnpacker.cyl =
      c.extractLsb' 0 10 ∧
    (c.toNat ≤ 1023 →
      (responseTo (.getCyl (responseTo (.chsSetcyl b c)).chsPacker.chs_out_b)).chsUnpacker.cyl.toNat =
        c.toNat) ∧
    (responseTo (.getSec (responseTo (.chsSetsec b v)).chsPacker.chs_out_b)).chsUnpacker.sec =
      v.extractLsb' 0 6 ∧
    (responseTo (.getHead (responseTo (.chsSethead b v)).chsPacker.chs_out_b)).chsUnpacker.head = v

/-- R67: pack after unpack is the identity on all 24 bits. -/
def Obligations.ChsPackAfterUnpack : Prop :=
  ∀ b : ChsBuf,
    let u := (responseTo (.chsUnpack b)).chsUnpacker
    (responseTo (.chsEncode (u.cyl.setWidth 16) u.head (u.sec.setWidth 8))).chsPacker.chs_out_b = b

/-- R68: unpack after pack keeps the low 10, 8 and 6 bits, and gives the values back exactly when they
are in range. -/
def Obligations.ChsUnpackAfterPack : Prop :=
  ∀ (c : BitVec 16) (h n : Byte),
    let u := (responseTo (.chsUnpack (responseTo (.chsEncode c h n)).chsPacker.chs_out_b)).chsUnpacker
    u = ⟨c.extractLsb' 0 10, h, n.extractLsb' 0 6⟩ ∧
    ((u.cyl.toNat = c.toNat ∧ u.head.toNat = h.toNat ∧ u.sec.toNat = n.toNat) ↔
      c.toNat ≤ 1023 ∧ n.toNat ≤ 63)

/-- R69: the three setters in any order give the bytes of one `CHS_PACK` with the enables together, and
so do any two of them; of two writes of one sub-field the later wins. -/
def Obligations.ChsSettersCommute : Prop :=
  ∀ (b : ChsBuf) (c c' : BitVec 16) (h h' n n' : Byte),
    let setC := fun x y => (responseTo (.chsSetcyl x y)).chsPacker.chs_out_b
    let setH := fun x y => (responseTo (.chsSethead x y)).chsPacker.chs_out_b
    let setS := fun x y => (responseTo (.chsSetsec x y)).chsPacker.chs_out_b
    let pack := fun wc wh ws => (responseTo (.chsPack b wc wh ws c h n)).chsPacker.chs_out_b
    (setS (setH (setC b c) h) n = pack true true true ∧
      setH (setS (setC b c) n) h = pack true true true ∧
      setS (setC (setH b h) c) n = pack true true true ∧
      setC (setS (setH b h) n) c = pack true true true ∧
      setH (setC (setS b n) c) h = pack true true true ∧
      setC (setH (setS b n) h) c = pack true true true) ∧
    (setH (setC b c) h = pack true true false ∧ setC (setH b h) c = pack true true false ∧
      setS (setC b c) n = pack true false true ∧ setC (setS b n) c = pack true false true ∧
      setS (setH b h) n = pack false true true ∧ setH (setS b n) h = pack false true true) ∧
    (setC (setC b c') c = setC b c ∧ setH (setH b h') h = setH b h ∧ setS (setS b n') n = setS b n)

/-! ## LBA -/

/-- R71: both views of the empty value. Model's own parts: assumptions 7 and 19. -/
def Obligations.LbaEmptyGivesZero : Prop :=
  ∀ s : State, exec .lbaEmpty s = .next
    { s with
      inputs := { s.inputs with op := 0x3 }
      outputs := { Outputs.zero with lbaPacker := ⟨0x00000000#32, 0⟩ }
      results := [.lba_out_b, .packer_value, .err] }

/-- R72: byte `i` of the output is `v[8i+7:8i]`. Model's own parts: assumptions 7, 17 and 19. -/
def Obligations.LbaPackIsLittleEndian : Prop :=
  ∀ (s : State) (v : BitVec 32), ∃ o : LbaBuf,
    exec (.lbaPack v) s = .next
      { s with
        inputs := { s.inputs with op := 0x5, lbaPacker := ⟨v⟩ }
        outputs := { Outputs.zero with lbaPacker := ⟨o, 0⟩ }
        results := [.lba_out_b, .err] } ∧
    ∀ i < 4, byteAt o i = v.extractLsb' (8 * i) 8

/-- The success of R73: with 4 bytes or more, `value` is `B[0] + 256*B[1] + 65536*B[2] +
16777216*B[3]`, 4 bytes are consumed, `trunc` and `err` are 0.
Model's own parts: assumptions 7 and 19. -/
def Obligations.LbaUnpackDecodesFourBytes : Prop :=
  ∀ (s : State) (b : LbaBuf) (n : BitVec 10), 4 ≤ n.toNat → ∃ v : BitVec 32,
    exec (.lbaUnpack b n) s = .next
      { s with
        inputs := { s.inputs with op := 0x4, lbaUnpacker := ⟨b, n⟩ }
        outputs :=
          { Outputs.zero with
            lbaUnpacker := { value := v, consumed := 4, remain := n - 4, trunc := false } }
        results := [.value, .consumed, .remain, .trunc, .err] } ∧
    v.toNat = (byteAt b 0).toNat + 256 * (byteAt b 1).toNat + 65536 * (byteAt b 2).toNat +
      16777216 * (byteAt b 3).toNat

/-- R113: `TruncatedInput` is reported exactly by `LBA_UNPACK` with `avail` below 4; `avail` comes back
on `remain` and nothing is consumed. The transaction answers: nothing stops (R112).
Input ports outside the operation: assumption 19. -/
def Obligations.TruncatedInputExactlyWhenShort : Prop :=
  (∀ (i : Instr) (s t : State), exec i s = .next t →
    (t.outputs.err = .truncatedInput ↔ ∃ b n, i = .lbaUnpack b n ∧ n.toNat < 4)) ∧
  (∀ (s : State) (b : LbaBuf) (n : BitVec 10), n.toNat < 4 → ∃ t,
    exec (.lbaUnpack b n) s = .next t ∧ t.outputs.err.code = 1 ∧
      t.outputs.lbaUnpacker.trunc = true ∧ t.outputs.lbaUnpacker.consumed = 0 ∧
      t.outputs.lbaUnpacker.remain = n ∧ t.script = s.script ∧
      t.inputs = { s.inputs with op := 0x4, lbaUnpacker := ⟨b, n⟩ })

/-- R74: 4 bytes are consumed or none, and `remain` is `avail - consumed`, which never goes below
zero. -/
def Obligations.LbaCursorAdvance : Prop :=
  ∀ (b : LbaBuf) (n : BitVec 10),
    let o := (responseTo (.lbaUnpack b n)).lbaUnpacker
    (o.consumed.toNat = if 4 ≤ n.toNat then 4 else 0) ∧
    o.consumed.toNat + o.remain.toNat = n.toNat

/-- R75: with fewer than 4 bytes no output depends on any bit of `lba_b`; with 4 or more, all four
lanes are used, each of them reaching `value`. -/
def Obligations.LbaNoReadOutOfBounds : Prop :=
  (∀ (b b' : LbaBuf) (n : BitVec 10), n.toNat < 4 →
    responseTo (.lbaUnpack b n) = responseTo (.lbaUnpack b' n)) ∧
  (∀ (b b' : LbaBuf) (n : BitVec 10), 4 ≤ n.toNat →
    (responseTo (.lbaUnpack b n)).lbaUnpacker.value =
      (responseTo (.lbaUnpack b' n)).lbaUnpacker.value → b = b')

/-- R76: of two decodes in a row, both succeed with 8 bytes or more; with 4 to 7 the first succeeds
and the second fails having consumed nothing; with fewer the first fails and the count has not
moved. -/
def Obligations.LbaChain : Prop :=
  ∀ (b b' : LbaBuf) (n : BitVec 10),
    let first := responseTo (.lbaUnpack b n)
    let second := responseTo (.lbaUnpack b' first.lbaUnpacker.remain)
    (8 ≤ n.toNat → first.err = .noFailure ∧ second.err = .noFailure ∧
      second.lbaUnpacker.remain.toNat = n.toNat - 8) ∧
    (4 ≤ n.toNat → n.toNat < 8 → first.err = .noFailure ∧ second.err = .truncatedInput ∧
      second.lbaUnpacker.consumed = 0 ∧ second.lbaUnpacker.remain.toNat = n.toNat - 4) ∧
    (n.toNat < 4 → first.err = .truncatedInput ∧ first.lbaUnpacker.consumed = 0 ∧
      first.lbaUnpacker.remain = n)

/-- R77: one byte order both ways, so decode and encode are inverse. -/
def Obligations.LbaRoundTrip : Prop :=
  (∀ (b : LbaBuf) (n : BitVec 10), 4 ≤ n.toNat →
    (responseTo (.lbaPack (responseTo (.lbaUnpack b n)).lbaUnpacker.value)).lbaPacker.lba_out_b = b) ∧
  (∀ (v : BitVec 32) (n : BitVec 10), 4 ≤ n.toNat →
    (responseTo (.lbaUnpack (responseTo (.lbaPack v)).lbaPacker.lba_out_b n)).lbaUnpacker.value = v)

/-- The document's `decode(buffer)` (`41_lba.md`, R73, R129): for a host whose buffer from the cursor on
is the bytes `l`, which drives `avail` with their true number and the lanes it has with them, the
outcome depends on the bytes it has and on nothing else. -/
def Obligations.LbaUnpackOfAHostBuffer : Prop :=
  ∀ (l : List Byte) (b : LbaBuf) (n : BitVec 10), n.toNat = l.length →
    (∀ i < 4, ∀ x, l[i]? = some x → byteAt b i = x) →
    match l with
    | b0 :: b1 :: b2 :: b3 :: rest =>
      (responseTo (.lbaUnpack b n)).err = .noFailure ∧
      (responseTo (.lbaUnpack b n)).lbaUnpacker.value.toNat =
        b0.toNat + 256 * (b1.toNat + 256 * (b2.toNat + 256 * b3.toNat)) ∧
      (responseTo (.lbaUnpack b n)).lbaUnpacker.remain.toNat = rest.length
    | _ =>
      (responseTo (.lbaUnpack b n)).err = .truncatedInput ∧
      (responseTo (.lbaUnpack b n)).lbaUnpacker.remain.toNat = l.length

/-! ## Status and type -/

/-- R80: the class of a status byte, the whole byte compared.
Model's own parts: assumptions 7, 17 and 19. -/
def Obligations.StClassifyGivesTheClass : Prop :=
  ∀ (s : State) (x : Byte), exec (.stClassify x) s = .next
    { s with
      inputs :=
        { s.inputs with
          op := 0x6, enumClassifier := { s.inputs.enumClassifier with status_in := x } }
      outputs :=
        { Outputs.zero with
          enumClassifier :=
            ⟨if x.toNat = 0 then .notBootable else if x.toNat = 128 then .bootable else .invalid,
              false⟩ }
      results := [.st_class, .err] }

/-- R83: `type_known` says whether the byte is in `TYPE_TABLE`, and 0x00 and 0x07 are in every
admissible table. Model's own parts: assumptions 7, 8, 17 and 19. -/
def Obligations.TyClassifyLooksUpTheTable : Prop :=
  (∀ (s : State) (x : Byte), exec (.tyClassify x) s = .next
    { s with
      inputs :=
        { s.inputs with
          op := 0x7, enumClassifier := { s.inputs.enumClassifier with ptype_in := x } }
      outputs :=
        { Outputs.zero with
          enumClassifier := ⟨.notBootable, Config.typeTableWith Config.furtherTypes x⟩ }
      results := [.type_known, .err] }) ∧
  (responseTo (.tyClassify 0x00)).enumClassifier.type_known = true ∧
  (responseTo (.tyClassify 0x07)).enumClassifier.type_known = true

/-- R84: the open table ranges over exactly the sets that contain 0x00 and 0x07, and no output but
`type_known` depends on it. -/
def Obligations.TypeTableIsOpen : Prop :=
  (∀ T : Byte → Bool, (T 0x00 = true ∧ T 0x07 = true) ↔ ∃ more, Config.typeTableWith more = T) ∧
  (∀ (m m' : Byte → Bool) (B : EntryBuf),
    { decodeEntryWith m B with type_known := false } =
      { decodeEntryWith m' B with type_known := false }) ∧
  (∀ (m m' : Byte → Bool) (B : SectorBuf) (k : Fin 4),
    let a := (decodeSectorWith m B).slots.get k
    let b := (decodeSectorWith m' B).slots.get k
    (decodeSectorWith m B).boot_out_b = (decodeSectorWith m' B).boot_out_b ∧ a.pe_b = b.pe_b ∧
      { a.entry with type_known := false } = { b.entry with type_known := false })

/-- R82: the raw byte and the abstract status determine each other; the class is that of the byte. -/
def Obligations.StatusAndByteDetermineEachOther : Prop :=
  (∀ e : PartitionStatus, statusOfByte (byteOfStatus e) = e) ∧
  (∀ x : Byte, byteOfStatus (statusOfByte x) = x) ∧
  (∀ x : Byte, classOfStatus (statusOfByte x) = (responseTo (.stClassify x)).enumClassifier.st_class)

/-! ## Partition entry -/

/-- R88: sixteen zero bytes. Model's own parts: assumptions 7 and 19. -/
def Obligations.PeEmptyGivesZeroBytes : Prop :=
  ∀ s : State, exec .peEmpty s = .next
    { s with
      inputs := { s.inputs with op := 0x8 }
      outputs := { Outputs.zero with partitionEncoder := ⟨0#128⟩ }
      results := [.pe_out_b, .err] }

/-- R89 on the bus bits of format F-PE (R44): where each of the fifteen outputs of `PE_DECODE` comes
from. Model's own parts: assumptions 7, 8 and 19. -/
def Obligations.PeDecodeGivesTheFields : Prop :=
  ∀ (s : State) (B : EntryBuf), exec (.peDecode B) s = .next
    { s with
      inputs := { s.inputs with op := 0x9, partitionDecoder := ⟨B⟩ }
      outputs :=
        { Outputs.zero with
          partitionDecoder :=
            { status := B.extractLsb' 0 8
              st_class :=
                if B.extractLsb' 0 8 = 0x00#8 then .notBootable
                else if B.extractLsb' 0 8 = 0x80#8 then .bootable else .invalid
              chs_first_b := B.extractLsb' 8 24
              cyl_first := B.extractLsb' 22 2 ++ B.extractLsb' 24 8
              head_first := B.extractLsb' 8 8
              sec_first := B.extractLsb' 16 6
              ptype := B.extractLsb' 32 8
              type_known := Config.typeTableWith Config.furtherTypes (B.extractLsb' 32 8)
              chs_last_b := B.extractLsb' 40 24
              cyl_last := B.extractLsb' 54 2 ++ B.extractLsb' 56 8
              head_last := B.extractLsb' 40 8
              sec_last := B.extractLsb' 48 6
              lba_first := B.extractLsb' 64 32
              lba_length := B.extractLsb' 96 32
              unused := B.extractLsb' 32 8 == 0#8 && B.extractLsb' 96 32 == 0#32 } }
      results := EntryPort.all.map .entry ++ [.err] }

/-- R91 on the bus bits of format F-PE (R44): the entry's fields in their places, the cylinders cut to
10 bits and the sectors to 6. Model's own parts: assumptions 7 and 19. -/
def Obligations.PeEncodePlacesTheFields : Prop :=
  ∀ (s : State) (e : EntryIn), exec (.peEncode e) s = .next
    { s with
      inputs := { s.inputs with op := 0xA, partitionEncoder := e }
      outputs :=
        { Outputs.zero with
          partitionEncoder :=
            ⟨e.lba_length_in ++ e.lba_first_in ++
              (e.cyl_last_in.extractLsb' 0 8 ++
                (e.cyl_last_in.extractLsb' 8 2 ++ e.sec_last_in.extractLsb' 0 6) ++
                e.head_last_in) ++
              e.ptype_in ++
              (e.cyl_first_in.extractLsb' 0 8 ++
                (e.cyl_first_in.extractLsb' 8 2 ++ e.sec_first_in.extractLsb' 0 6) ++
                e.head_first_in) ++
              e.status_in⟩ }
      results := [.pe_out_b, .err] }

/-- R90: `PE_DECODE` computes what its structure of six sub-units does, and the two chained
`LBA_unpacker`s in it never fail, the second having 4 bytes. -/
def Obligations.PeDecodeIsItsStructure : Prop :=
  ∀ B : EntryBuf,
    (responseTo (.peDecode B)).partitionDecoder = decodeEntryByUnits Config.furtherTypes B ∧
    (let first := responseTo (.lbaUnpack (memRead B 8 4) 8)
     first.err = .noFailure ∧ first.lbaUnpacker.remain = 4 ∧
      (responseTo (.lbaUnpack (memRead B 12 4) first.lbaUnpacker.remain)).err = .noFailure)

/-- R95: `PE_ENCODE` computes what its structure of four sub-units does. -/
def Obligations.PeEncodeIsItsStructure : Prop :=
  ∀ e : EntryIn, (responseTo (.peEncode e)).partitionEncoder.pe_out_b = encodeEntryByUnits e

/-- R92: the slot is unused exactly when bytes 4 and 12 to 15 are zero. -/
def Obligations.UnusedLooksAtTypeAndLength : Prop :=
  ∀ B : EntryBuf, (responseTo (.peDecode B)).partitionDecoder.unused = true ↔
    byteAt B 4 = 0 ∧ byteAt B 12 = 0 ∧ byteAt B 13 = 0 ∧ byteAt B 14 = 0 ∧ byteAt B 15 = 0

/-- R96: encode after decode is the identity on all sixteen bytes. -/
def Obligations.EntryEncodeAfterDecode : Prop :=
  ∀ B : EntryBuf,
    (responseTo (.peEncode (fieldsOf (responseTo (.peDecode B)).partitionDecoder))).partitionEncoder.pe_out_b
      = B

/-- R97: decode after encode gives the ten fields back, the cylinders reduced to their low 10 bits and
the sectors to their low 6; entries in range come back whole. -/
def Obligations.EntryDecodeAfterEncode : Prop :=
  ∀ e : EntryIn,
    let back :=
      fieldsOf (responseTo (.peDecode (responseTo (.peEncode e)).partitionEncoder.pe_out_b)).partitionDecoder
    back =
      { e with
        cyl_first_in := (e.cyl_first_in.extractLsb' 0 10).setWidth 16
        sec_first_in := (e.sec_first_in.extractLsb' 0 6).setWidth 8
        cyl_last_in := (e.cyl_last_in.extractLsb' 0 10).setWidth 16
        sec_last_in := (e.sec_last_in.extractLsb' 0 6).setWidth 8 } ∧
    (e.inRange = true → back = e)

/-- R98: the empty entry decodes to all fields zero, an unused slot, and those fields encode to it. -/
def Obligations.EmptyEntryRoundTrip : Prop :=
  let empty := (responseTo .peEmpty).partitionEncoder.pe_out_b
  fieldsOf (responseTo (.peDecode empty)).partitionDecoder = EntryIn.zero ∧
  (responseTo (.peDecode empty)).partitionDecoder.st_class = .notBootable ∧
  (responseTo (.peDecode empty)).partitionDecoder.unused = true ∧
  (responseTo (.peEncode EntryIn.zero)).partitionEncoder.pe_out_b = empty

/-- R99: each output of `PE_DECODE` depends on the bytes of its own field only, and each byte of
`PE_ENCODE` on the inputs of one field only. -/
def Obligations.EntryFieldsAreIndependent : Prop :=
  (∀ (B B' : EntryBuf) (p : EntryPort), (∀ k ∈ p.ownBytes, byteAt B k = byteAt B' k) →
    (responseTo (.peDecode B)).partitionDecoder.read p =
      (responseTo (.peDecode B')).partitionDecoder.read p) ∧
  (∀ (e f : EntryIn) (k : Nat), k < 16 → sameEntryFieldAt k e f →
    byteAt (responseTo (.peEncode e)).partitionEncoder.pe_out_b k =
      byteAt (responseTo (.peEncode f)).partitionEncoder.pe_out_b k)

/-- The document's round-trip law on its own aggregate (`10_state.md` R19, `43_partition_entry.md`
section 3): decode and encode are inverse on every entry and on every 16 bytes, and the empty entry
is sixteen zero bytes. -/
def Obligations.PartitionEntryAndBytesDetermineEachOther : Prop :=
  (∀ e : PartitionEntry, entryOfBytes (bytesOfEntry e) = e) ∧
  (∀ B : EntryBuf, bytesOfEntry (entryOfBytes B) = B) ∧
  bytesOfEntry emptyEntry = (responseTo .peEmpty).partitionEncoder.pe_out_b

/-! ## Sector container -/

/-- R101 and the fixed bits of R45: `MBR_DECODE` always answers, and it claims success exactly when
byte 510 is 0x55 and byte 511 is 0xAA. -/
def Obligations.MbrDecodeChecksTheSignature : Prop :=
  ∀ (s : State) (B : SectorBuf), ∃ t, exec (.mbrDecode B) s = .next t ∧
    (t.outputs.sectorDecoder.sig_ok = true ↔ byteAt B 510 = 0x55 ∧ byteAt B 511 = 0xAA) ∧
    (t.outputs.sectorDecoder.sig_ok = true ↔
      B &&& (0xFFFF#4096 <<< 4080) = (0xAA55#4096 <<< 4080)) ∧
    (t.outputs.err = if t.outputs.sectorDecoder.sig_ok then .noFailure else .invalidSignature)

/-- The success of R100 on the bus bits of R33: the bootstrap bytes, and for each slot `k` the sixteen
bytes at offset `446 + 16k` and what `PE_DECODE` gives for them.
Model's own parts: assumptions 7, 8 and 19. -/
def Obligations.MbrDecodeGivesFourEntries : Prop :=
  ∀ (s : State) (B : SectorBuf), byteAt B 510 = 0x55 → byteAt B 511 = 0xAA →
    let slot := fun e : EntryBuf => SlotOut.mk e (responseTo (.peDecode e)).partitionDecoder
    exec (.mbrDecode B) s = .next
      { s with
        inputs := { s.inputs with op := 0xB, sectorDecoder := ⟨B⟩ }
        outputs :=
          { Outputs.zero with
            sectorDecoder :=
              { sig_ok := true
                boot_out_b := B.extractLsb' 0 3568
                slots :=
                  ⟨slot (B.extractLsb' 3568 128), slot (B.extractLsb' 3696 128),
                    slot (B.extractLsb' 3824 128), slot (B.extractLsb' 3952 128)⟩ } }
        results :=
          [.sig_ok, .err, .boot_out_b] ++ slotPorts 0 ++ slotPorts 1 ++ slotPorts 2 ++ slotPorts 3 }

/-- R114: `InvalidSignature` is reported exactly by `MBR_DECODE` on a sector that lacks the signature;
the transaction answers with `sig_ok` = 0. Input ports outside the operation: assumption 19. -/
def Obligations.InvalidSignatureExactlyWithoutSignature : Prop :=
  (∀ (i : Instr) (s t : State), exec i s = .next t →
    (t.outputs.err = .invalidSignature ↔
      ∃ B, i = .mbrDecode B ∧ ¬ (byteAt B 510 = 0x55 ∧ byteAt B 511 = 0xAA))) ∧
  (∀ (s : State) (B : SectorBuf), ¬ (byteAt B 510 = 0x55 ∧ byteAt B 511 = 0xAA) → ∃ t,
    exec (.mbrDecode B) s = .next t ∧ t.outputs.err.code = 2 ∧
      t.outputs.sectorDecoder.sig_ok = false ∧ t.script = s.script ∧
      t.inputs = { s.inputs with op := 0xB, sectorDecoder := ⟨B⟩ })

/-- R103 and R104: the output bytes of `MBR_ENCODE`, region by region.
Model's own parts: assumptions 7 and 19. -/
def Obligations.MbrEncodeWritesEveryByte : Prop :=
  ∀ (s : State) (keep : Bool) (boot : BootBuf) (v : Slots EntryIn), ∃ o : SectorBuf,
    exec (.mbrEncode keep boot v) s = .next
      { s with
        inputs := { s.inputs with op := 0xC, sectorEncoder := ⟨keep, boot, v⟩ }
        outputs := { Outputs.zero with sectorEncoder := ⟨o⟩ }
        results := [.mbr_out_b, .err] } ∧
    (∀ i < 446, byteAt o i = if keep then byteAt boot i else 0x00) ∧
    (∀ (k : Fin 4) (j : Nat), j < 16 → byteAt o (446 + 16 * k.val + j) =
      byteAt (responseTo (.peEncode (v.get k))).partitionEncoder.pe_out_b j) ∧
    byteAt o 510 = 0x55 ∧ byteAt o 511 = 0xAA

/-- R105 and R106: the two settings of `MBR_ENCODE`; with a zero bootstrap they give the same sector.
Whatever stands on `boot_in_b` in an `MBR_BUILD` (`x`) is ignored.
Model's own parts: assumptions 7 and 19. -/
def Obligations.MbrBuildAndUpdateAreEncodes : Prop :=
  ∀ (s : State) (boot : BootBuf) (v : Slots EntryIn), ∃ (x : BootBuf) (o o' : SectorBuf),
    exec (.mbrBuild v) s = .next
      { s with
        inputs := { s.inputs with op := 0xC, sectorEncoder := ⟨false, x, v⟩ }
        outputs := { Outputs.zero with sectorEncoder := ⟨o⟩ }
        results := [.mbr_out_b, .err] } ∧
    exec (.mbrUpdate boot v) s = .next
      { s with
        inputs := { s.inputs with op := 0xC, sectorEncoder := ⟨true, boot, v⟩ }
        outputs := { Outputs.zero with sectorEncoder := ⟨o'⟩ }
        results := [.mbr_out_b, .err] } ∧
    (∀ i < 446, byteAt o i = 0x00 ∧ byteAt o' i = byteAt boot i) ∧
    (∀ (k : Fin 4) (j : Nat), j < 16 →
      byteAt o (446 + 16 * k.val + j) =
          byteAt (responseTo (.peEncode (v.get k))).partitionEncoder.pe_out_b j ∧
        byteAt o' (446 + 16 * k.val + j) =
          byteAt (responseTo (.peEncode (v.get k))).partitionEncoder.pe_out_b j) ∧
    byteAt o 510 = 0x55 ∧ byteAt o 511 = 0xAA ∧ byteAt o' 510 = 0x55 ∧ byteAt o' 511 = 0xAA ∧
    (boot = 0 → o = o')

/-- R102: the bootstrap bytes are copied unchanged or replaced by zeros; no output but `boot_out_b`
depends on a bootstrap byte, and no byte of an encoded sector from 446 on depends on the bootstrap
inputs. -/
def Obligations.BootstrapIsOpaque : Prop :=
  (∀ B : SectorBuf, byteAt B 510 = 0x55 → byteAt B 511 = 0xAA → ∀ i < 446,
    byteAt (responseTo (.mbrDecode B)).sectorDecoder.boot_out_b i = byteAt B i) ∧
  (∀ B B' : SectorBuf, (∀ i, 446 ≤ i → byteAt B i = byteAt B' i) →
    ∀ p : OutPort, p ≠ .boot_out_b →
      (responseTo (.mbrDecode B)).read p = (responseTo (.mbrDecode B')).read p) ∧
  (∀ (keep : Bool) (boot : BootBuf) (v : Slots EntryIn), ∀ i < 446,
    byteAt (responseTo (.mbrEncode keep boot v)).sectorEncoder.mbr_out_b i =
      if keep then byteAt boot i else 0x00) ∧
  (∀ (keep keep' : Bool) (boot boot' : BootBuf) (v : Slots EntryIn) (i : Nat), 446 ≤ i →
    byteAt (responseTo (.mbrEncode keep boot v)).sectorEncoder.mbr_out_b i =
      byteAt (responseTo (.mbrEncode keep' boot' v)).sectorEncoder.mbr_out_b i)

/-- R109 (a): decoding a sector that has the signature and encoding its bootstrap bytes and its
fields again gives all 512 bytes back. -/
def Obligations.SectorUpdateAfterDecode : Prop :=
  ∀ B : SectorBuf,
    let d := (responseTo (.mbrDecode B)).sectorDecoder
    d.sig_ok = true →
    (responseTo (.mbrUpdate d.boot_out_b (d.slots.map fun x => fieldsOf x.entry))).sectorEncoder.mbr_out_b
      = B

/-- R109 (b): every encoded sector decodes; each slot gives what `PE_DECODE` after `PE_ENCODE` gives,
and the bootstrap bytes are those given or zeros. -/
def Obligations.SectorDecodeAfterEncode : Prop :=
  ∀ (keep : Bool) (boot : BootBuf) (v : Slots EntryIn),
    let o := responseTo (.mbrDecode (responseTo (.mbrEncode keep boot v)).sectorEncoder.mbr_out_b)
    o.err = .noFailure ∧ o.sectorDecoder.sig_ok = true ∧
    o.sectorDecoder.boot_out_b = (if keep then boot else 0) ∧
    ∀ k : Fin 4, (o.sectorDecoder.slots.get k).entry =
      (responseTo (.peDecode (responseTo (.peEncode (v.get k))).partitionEncoder.pe_out_b)).partitionDecoder

/-- R110: the sector units compute what their structures do. On a sector without the signature the
first clause is about the zeros that the gate forces, the filler of assumption 10: R119 says "a claim
must not be made to rest on the zero payload of a failed transaction", so none may be drawn from this
one there. -/
def Obligations.SectorUnitsAreTheirStructures : Prop :=
  (∀ B : SectorBuf,
    (responseTo (.mbrDecode B)).sectorDecoder = sectorDecoderByUnits Config.furtherTypes B) ∧
  (∀ p : SectorEncoderIn,
    (responseTo (.mbrEncode p.boot_keep p.boot_in_b p.entries)).sectorEncoder.mbr_out_b =
      sectorEncoderByUnits p)

/-! ## The whole machine -/

/-- R10: every output is a function of the request alone. Two states whose next transaction is the same
get the same response, whatever their wires and scripts (how a host presents requests is the model's:
assumption 2); a well-formed instruction always gets its response, and only the wires change.
Model's own parts: assumptions 7 and 19. -/
def Obligations.ResponseIsAFunctionOfTheRequest : Prop :=
  (∀ s s' t : State, nextInstr s = nextInstr s' → step s = .next t →
    ∃ t', step s' = .next t' ∧ t'.outputs = t.outputs ∧ t'.results = t.results) ∧
  (∀ (i : Instr) (s : State), i.wellFormed = true → ∃ t, exec i s = .next t ∧
    t.outputs = responseTo i ∧ t.inputs = drive i s.inputs ∧ t.results = resultPorts i ∧
    t.script = s.script)

/-- R50, its last clause: output ports that do not belong to the selected operation read as zero; and
its second: input ports that do not belong to it are ignored. That a port belongs to an operation, not
to its unit, is assumption 17. -/
def Obligations.PortsOutsideTheOperation : Prop :=
  (∀ (i : Instr) (s t : State) (p : OutPort), exec i s = .next t → p ∉ resultPorts i.expand →
    t.outputs.read p = 0) ∧
  (∀ (i : Instr) (p q : Inputs), selected (drive i p) = selected (drive i q))

/-- R21: every output port carries a number of its width. -/
def Obligations.OutputPortsHaveTheirWidths : Prop :=
  ∀ (o : Outputs) (p : OutPort), o.read p < 2 ^ p.width

/-- R13, R115: after every step the flags agree with `err` and with the selected operation, whatever
the state before (one `err` wire and no constructor for code 3: assumptions 11 and 18). -/
def Obligations.StepKeepsFlagsAgreeing : Prop :=
  ∀ s t : State, step s = .next t → t.flagsAgree ∧ t.outputs.err.code ≠ 3 ∧
    (∀ u : UnitName, unitErr t.inputs.op t.outputs u ≠ .noFailure →
      u = .lbaUnpacker ∨ u = .sectorDecoder)

/-- R50, R136: the response stands beside its request. After every step the output wires carry the
response to the request on the input wires, whatever the state before. -/
def Obligations.StepKeepsResponseBesideRequest : Prop :=
  ∀ s t : State, step s = .next t → t.coherent

/-- The two invariants hold at reset, where the input wires are at the model's choice 0 (assumptions 3
and 4). -/
def Obligations.ResetMeetsTheInvariants : Prop :=
  State.reset.coherent ∧ State.reset.flagsAgree

/-- R32, R136: the response stays as long as the request is held. A step with no further line after it
can be repeated for ever and changes nothing (a step without a line performs the held request: the
model's, assumption 2; the wires and results kept are assumptions 19 and 7). -/
def Obligations.HeldRequestKeepsItsResponse : Prop :=
  ∀ s t : State, s.script.length ≤ 1 → step s = .next t → step t = .next t

/-- R136: a script of unreserved requests ends; it takes one step a line, no step can block, and the
last line's response is on the output wires (scripts are held as the model's field, assumption 2). -/
def Obligations.EveryScriptEnds : Prop :=
  ∀ s : State, s.issuable = true →
    ∃ t : State, Host.Core.run Sys2Proof.core s.script.length s = .next t ∧ t.script = [] ∧
      ∀ ws w, s.script = ws ++ [w] → t.outputs = responseTo (decode w)

/-- R120: after a failure the next transaction gets the response it would have got had the failure
never happened (that the next transaction is the next line, and the `results` compared, are the
model's: assumptions 2 and 7). -/
def Obligations.FailureLeavesNothingBehind : Prop :=
  ∀ (s t u : State) (w w' : ReqWord) (ws : List ReqWord), s.script = w :: w' :: ws →
    step s = .next t → t.outputs.err ≠ .noFailure → step t = .next u →
    ∃ v, step { s with script := w' :: ws } = .next v ∧ v.outputs = u.outputs ∧
      v.results = u.results ∧ v.script = u.script
end

