-- ==== Sys2Proof/Laws/State.lean ====
section
/-! SUPPORT. One lemma per field per update of the state, and per wire group of `drive`: later proofs
never unfold a record update. -/

namespace Sys2Proof.Machine

/-! ## `State.answered` -/

@[simp] theorem State.answered_script (s : State) (i : Instr) (o : Outputs) :
    (s.answered i o).script = s.script := rfl

@[simp] theorem State.answered_inputs (s : State) (i : Instr) (o : Outputs) :
    (s.answered i o).inputs = drive i s.inputs := rfl

@[simp] theorem State.answered_outputs (s : State) (i : Instr) (o : Outputs) :
    (s.answered i o).outputs = o := rfl

@[simp] theorem State.answered_results (s : State) (i : Instr) (o : Outputs) :
    (s.answered i o).results = resultPorts i := rfl

/-! ## `State.takeLine` -/

@[simp] theorem State.takeLine_script (s : State) : s.takeLine.script = s.script.tail := rfl

@[simp] theorem State.takeLine_inputs (s : State) : s.takeLine.inputs = s.inputs := rfl

@[simp] theorem State.takeLine_outputs (s : State) : s.takeLine.outputs = s.outputs := rfl

@[simp] theorem State.takeLine_results (s : State) : s.takeLine.results = s.results := rfl

/-! ## `State.withLine` and `State.withFetchWord` -/

@[simp] theorem State.withLine_script (s : State) (w : ReqWord) :
    (s.withLine w).script = w :: s.script := rfl

@[simp] theorem State.withLine_inputs (s : State) (w : ReqWord) :
    (s.withLine w).inputs = s.inputs := rfl

@[simp] theorem State.withLine_outputs (s : State) (w : ReqWord) :
    (s.withLine w).outputs = s.outputs := rfl

@[simp] theorem State.withLine_results (s : State) (w : ReqWord) :
    (s.withLine w).results = s.results := rfl

@[simp] theorem State.withLine_takeLine (s : State) (w : ReqWord) : (s.withLine w).takeLine = s := rfl

@[simp] theorem State.withFetchWord_script (s : State) (nbits w : Nat) :
    (s.withFetchWord nbits w).script = w % 2 ^ nbits :: s.script := rfl

@[simp] theorem State.withFetchWord_inputs (s : State) (nbits w : Nat) :
    (s.withFetchWord nbits w).inputs = s.inputs := rfl

@[simp] theorem State.withFetchWord_outputs (s : State) (nbits w : Nat) :
    (s.withFetchWord nbits w).outputs = s.outputs := rfl

@[simp] theorem State.withFetchWord_results (s : State) (nbits w : Nat) :
    (s.withFetchWord nbits w).results = s.results := rfl

/-! ## `nextInstr` -/

@[simp] theorem nextInstr_withLine (s : State) (w : ReqWord) : nextInstr (s.withLine w) = decode w :=
  rfl

theorem nextInstr_of_nil {s : State} (h : s.script = []) : nextInstr s = selected s.inputs := by
  simp [nextInstr, h]

theorem nextInstr_of_cons {s : State} {w : ReqWord} {ws : List ReqWord} (h : s.script = w :: ws) :
    nextInstr s = decode w := by
  simp [nextInstr, h]

/-! ## `State.reset` -/

@[simp] theorem State.reset_script : State.reset.script = [] := rfl

@[simp] theorem State.reset_inputs : State.reset.inputs = Inputs.zero := rfl

@[simp] theorem State.reset_outputs : State.reset.outputs = Outputs.zero := rfl

@[simp] theorem State.reset_results : State.reset.results = [] := rfl

end Sys2Proof.Machine
end

