-- ==== Sys2Proof/Laws/Decode.lean ====
section
/-! SUPPORT. Reading back what was placed in a line, and driving wires. -/

namespace Sys2Proof

open Sys2Proof.Machine

/-! ## Fields of a line -/

/-- Bit `j` of a line with `v` placed at `off`. -/
theorem putField_testBit {n : Nat} (w : ReqWord) (off : Nat) (v : BitVec n) (j : Nat) :
    (putField w off v).testBit j =
      (w.testBit j || (decide (off ≤ j) && v.getLsbD (j - off))) := by
  simp [putField, Nat.testBit_or, Nat.testBit_shiftLeft, BitVec.testBit_toNat]

/-- Bit `j` of a field. -/
theorem getField_getLsbD (w : ReqWord) (off n j : Nat) :
    (getField w off n).getLsbD j = (decide (j < n) && w.testBit (off + j)) := by
  simp [getField, BitVec.getLsbD_ofNat]

/-- A field reads back the value placed there, when the line had zeros there. -/
theorem getField_putField_same {n : Nat} (w : ReqWord) (off : Nat) (v : BitVec n)
    (hz : getField w off n = 0#n) : getField (putField w off v) off n = v := by
  apply BitVec.eq_of_getLsbD_eq
  intro j hj
  have h0 := congrArg (fun x => BitVec.getLsbD x j) hz
  simp only [getField_getLsbD, BitVec.getLsbD_zero, decide_eq_true hj, Bool.true_and] at h0
  rw [getField_getLsbD, putField_testBit, h0, decide_eq_true hj, decide_eq_true (by omega),
    Nat.add_sub_cancel_left]
  simp

/-- A field is unchanged by a value placed outside it. -/
theorem getField_putField_other {m : Nat} (w : ReqWord) (off n off' : Nat) (v : BitVec m)
    (h : off + n ≤ off' ∨ off' + m ≤ off) :
    getField (putField w off' v) off n = getField w off n := by
  apply BitVec.eq_of_getLsbD_eq
  intro j hj
  rw [getField_getLsbD, getField_getLsbD, putField_testBit, decide_eq_true hj]
  rcases h with h | h
  · rw [decide_eq_false (by omega : ¬ off' ≤ off + j)]
    simp
  · rw [BitVec.getLsbD_of_ge v (off + j - off') (by omega)]
    simp

/-- Every field of the empty line is zero. -/
@[simp] theorem getField_zero (off n : Nat) : getField 0 off n = 0#n := by
  simp [getField]

/-- Placing a bit is placing a one-bit field. -/
theorem putBit_eq (w : ReqWord) (off : Nat) (b : Bool) :
    putBit w off b = putField w off (BitVec.ofBool b) := by
  cases b <;> rfl

/-- A bit reads back the bit placed there, when the line had a zero there. -/
theorem getBit_putBit_same (w : ReqWord) (off : Nat) (b : Bool) (hz : getBit w off = false) :
    getBit (putBit w off b) off = b := by
  have h0 : w.testBit off = false := hz
  rw [putBit_eq, getBit, putField_testBit, h0, Nat.sub_self]
  cases b <;> simp

/-- A bit is unchanged by a value placed outside it. -/
theorem getBit_putField_other {m : Nat} (w : ReqWord) (off off' : Nat) (v : BitVec m)
    (h : off < off' ∨ off' + m ≤ off) : getBit (putField w off' v) off = getBit w off := by
  rw [getBit, getBit, putField_testBit]
  rcases h with h | h
  · rw [decide_eq_false (by omega : ¬ off' ≤ off)]
    simp
  · rw [BitVec.getLsbD_of_ge v (off - off') (by omega)]
    simp

/-! ## Wires -/

/-- Driving a line's wires selects the operation it expands to. -/
theorem selected_drive (i : Instr) (p : Inputs) : selected (drive i p) = i.expand := by
  cases i <;> simp [selected, drive, driveChsPack, driveMbrEncode, Instr.expand]

/-- Expanding twice is expanding once. -/
@[simp] theorem expand_expand (i : Instr) : i.expand.expand = i.expand := by
  cases i <;> rfl

/-- A core instruction is its own expansion (R53). -/
theorem expand_of_isCore {i : Instr} (h : i.isCore = true) : i.expand = i := by
  cases i <;> first | rfl | simp [Instr.isCore] at h

/-- A pseudo-operation drives the wires of its expansion (R54). -/
theorem drive_expand (i : Instr) (p : Inputs) : drive i.expand p = drive i p := by
  cases i <;> rfl

/-- The operation code of a line is on `op` (R50). -/
@[simp] theorem drive_op (i : Instr) (p : Inputs) : (drive i p).op = i.opcode := by
  cases i <;> rfl

end Sys2Proof
end

