-- ==== Sys2Proof/Laws/Ops.lean ====
section
/-! SUPPORT. One lemma per shared operation that says all it can do: performing a transaction,
refusing, raising a failure, reading and assembling bytes; and what the abstract type of a byte can be. -/

namespace Sys2Proof.Machine

/-! ## Transactions and failures -/

/-- A transaction always answers, with the response beside its request and nothing else changed. -/
theorem transact_eq (i : Instr) (o : Outputs) (s : State) :
    transact i o s = .next (s.answered i o) := rfl

/-- If a transaction answers `t`, then `t` is the answered state. -/
theorem transact_next {i : Instr} {o : Outputs} {s t : State} (h : transact i o s = .next t) :
    t = s.answered i o := by
  cases h; rfl

/-- A reserved code never has a next state. -/
theorem refuseReserved_ne_next (op : BitVec 4) (t : State) : refuseReserved op ≠ .next t := nofun

@[simp] theorem raise_err_truncatedInput (n : BitVec 10) :
    (raise (.truncatedInput n)).err = .truncatedInput := rfl

@[simp] theorem raise_err_invalidSignature : (raise .invalidSignature).err = .invalidSignature := rfl

@[simp] theorem raise_lbaUnpacker_truncatedInput (n : BitVec 10) :
    (raise (.truncatedInput n)).lbaUnpacker = ⟨0, 0, n, true⟩ := rfl

@[simp] theorem raise_sectorDecoder_invalidSignature :
    (raise .invalidSignature).sectorDecoder = Outputs.zero.sectorDecoder := rfl

/-! ## Bytes of a buffer -/

/-- Bit `j` of byte `i` is bus bit `8i+j` (R24). -/
theorem byteAt_getLsbD {w : Nat} (b : BitVec w) (i j : Nat) :
    (byteAt b i).getLsbD j = (decide (j < 8) && b.getLsbD (8 * i + j)) := by
  simp [byteAt]

/-- Bit `j` of `MemRead(B, off, n)` is bit `8*off+j` of the bus (R8, R24). -/
theorem memRead_getLsbD {w : Nat} (b : BitVec w) (off n j : Nat) :
    (memRead b off n).getLsbD j = (decide (j < 8 * n) && b.getLsbD (8 * off + j)) := by
  simp [memRead]

/-- Byte `i` of `MemRead(B, off, n)` is byte `off+i` of the buffer (R8). -/
theorem byteAt_memRead {w : Nat} (b : BitVec w) {off n i : Nat} (h : i < n) :
    byteAt (memRead b off n) i = byteAt b (off + i) := by
  apply BitVec.eq_of_getLsbD_eq
  intro j hj
  have h1 : 8 * i + j < 8 * n := by omega
  rw [byteAt_getLsbD, byteAt_getLsbD, memRead_getLsbD, decide_eq_true hj, decide_eq_true h1,
    show 8 * off + (8 * i + j) = 8 * (off + i) + j by omega]
  simp

/-- Two buffers with the same bytes are equal. -/
theorem eq_of_byteAt_eq {n : Nat} {a b : BitVec (8 * n)} (h : ∀ i < n, byteAt a i = byteAt b i) :
    a = b := by
  apply BitVec.eq_of_getLsbD_eq
  intro j hj
  have hb := congrArg (fun x => BitVec.getLsbD x (j % 8)) (h (j / 8) (by omega))
  simp only [byteAt_getLsbD, decide_eq_true (Nat.mod_lt j (by omega : 8 > 0)), Bool.true_and,
    Nat.div_add_mod] at hb
  exact hb

/-- Byte `i` of a concatenation: of the lower part below its size, else of the upper part. -/
theorem byteAt_append {v : Nat} (w : Nat) (a : BitVec v) (b : BitVec (8 * w)) (i : Nat) :
    byteAt (a ++ b) i = if i < w then byteAt b i else byteAt a (i - w) := by
  apply BitVec.eq_of_getLsbD_eq
  intro j hj
  by_cases h : i < w
  · have h1 : 8 * i + j < 8 * w := by omega
    rw [if_pos h, byteAt_getLsbD, byteAt_getLsbD, BitVec.getLsbD_append, if_pos h1]
  · have h1 : ¬ 8 * i + j < 8 * w := by omega
    rw [if_neg h, byteAt_getLsbD, byteAt_getLsbD, BitVec.getLsbD_append, if_neg h1,
      show 8 * i + j - 8 * w = 8 * (i - w) + j by omega]

/-- A byte read as a buffer of one byte is itself. -/
@[simp] theorem byteAt_zero (a : Byte) : byteAt a 0 = a := by
  simp [byteAt]

/-- The bytes of `[b0 b1 b2]` (R7). -/
@[simp] theorem byteAt_bytes3 (b0 b1 b2 : Byte) :
    byteAt (bytes3 b0 b1 b2) 0 = b0 ∧ byteAt (bytes3 b0 b1 b2) 1 = b1 ∧
      byteAt (bytes3 b0 b1 b2) 2 = b2 :=
  ⟨(byteAt_append 1 (b2 ++ b1) b0 0).trans (byteAt_zero b0),
    (byteAt_append 1 (b2 ++ b1) b0 1).trans ((byteAt_append 1 b2 b1 0).trans (byteAt_zero b1)),
    (byteAt_append 1 (b2 ++ b1) b0 2).trans ((byteAt_append 1 b2 b1 1).trans (byteAt_zero b2))⟩

/-- The bytes of `[b0 b1 b2 b3]` (R7). -/
@[simp] theorem byteAt_bytes4 (b0 b1 b2 b3 : Byte) :
    byteAt (bytes4 b0 b1 b2 b3) 0 = b0 ∧ byteAt (bytes4 b0 b1 b2 b3) 1 = b1 ∧
      byteAt (bytes4 b0 b1 b2 b3) 2 = b2 ∧ byteAt (bytes4 b0 b1 b2 b3) 3 = b3 :=
  ⟨(byteAt_append 1 (b3 ++ b2 ++ b1) b0 0).trans (byteAt_zero b0),
    (byteAt_append 1 (b3 ++ b2 ++ b1) b0 1).trans
      ((byteAt_append 1 (b3 ++ b2) b1 0).trans (byteAt_zero b1)),
    (byteAt_append 1 (b3 ++ b2 ++ b1) b0 2).trans
      ((byteAt_append 1 (b3 ++ b2) b1 1).trans
        ((byteAt_append 1 b3 b2 0).trans (byteAt_zero b2))),
    (byteAt_append 1 (b3 ++ b2 ++ b1) b0 3).trans
      ((byteAt_append 1 (b3 ++ b2) b1 2).trans
        ((byteAt_append 1 b3 b2 1).trans (byteAt_zero b3)))⟩

/-- Byte `i` of a 16-byte buffer is byte `i % 4` of its group (R7). -/
theorem byteAt_bytes16 (q0 q1 q2 q3 : LbaBuf) (i : Nat) :
    byteAt (bytes16 q0 q1 q2 q3) i =
      if i < 4 then byteAt q0 i else if i < 8 then byteAt q1 (i - 4)
      else if i < 12 then byteAt q2 (i - 8) else byteAt q3 (i - 12) := by
  have h0 := byteAt_append 4 (q3 ++ q2 ++ q1) q0 i
  have h1 := byteAt_append 4 (q3 ++ q2) q1 (i - 4)
  have h2 := byteAt_append 4 q3 q2 (i - 4 - 4)
  unfold bytes16
  rw [h0, h1, h2]
  split
  · rfl
  · by_cases h8 : i < 8
    · rw [if_pos h8, if_pos (by omega)]
    · rw [if_neg h8, if_neg (by omega)]
      by_cases h12 : i < 12
      · rw [if_pos h12, if_pos (by omega), Nat.sub_sub]
      · rw [if_neg h12, if_neg (by omega), Nat.sub_sub, Nat.sub_sub]

/-! ## The abstract type of a type byte -/

/-- No information is lost on the way through the abstract type (R85, R87). -/
@[simp] theorem byteOfType_typeOfByte (more : Byte → Bool) (x : Byte) :
    byteOfType (typeOfByte more x) = x := by
  unfold typeOfByte; split <;> rfl

/-- The abstract types that some byte gives are those whose tag agrees with the table, and on them the
two maps are inverse to each other. The other values arise from no byte (assumption 22). -/
theorem typeOfByte_reaches_iff (more : Byte → Bool) (t : PartitionType) :
    (∃ x, typeOfByte more x = t) ↔ typeOfByte more (byteOfType t) = t :=
  ⟨by rintro ⟨x, rfl⟩; rw [byteOfType_typeOfByte], fun h => ⟨_, h⟩⟩

end Sys2Proof.Machine
end

