-- ==== Sys2Proof/Laws/PerInstr.lean ====
section
/-! SUPPORT. Per-instruction families: a statement about an instruction as syntax and one lemma for
each constructor of `Instr`. -/

namespace Sys2Proof.Laws.LineOpcode

/-- The line of an instruction begins with its operation code, which its expansion shares (R49,
R54). -/
def Statement (i : Instr) : Prop := i.expand.opcode = i.opcode ∧ (encode i.expand = encode i)

theorem chsEmpty : Statement .chsEmpty := ⟨rfl, rfl⟩
theorem chsUnpack (b : ChsBuf) : Statement (.chsUnpack b) := ⟨rfl, rfl⟩
theorem chsPack (b : ChsBuf) (wc wh ws : Bool) (c : BitVec 16) (h s : Byte) :
    Statement (.chsPack b wc wh ws c h s) := ⟨rfl, rfl⟩
theorem lbaEmpty : Statement .lbaEmpty := ⟨rfl, rfl⟩
theorem lbaUnpack (b : LbaBuf) (n : BitVec 10) : Statement (.lbaUnpack b n) := ⟨rfl, rfl⟩
theorem lbaPack (v : BitVec 32) : Statement (.lbaPack v) := ⟨rfl, rfl⟩
theorem stClassify (x : Byte) : Statement (.stClassify x) := ⟨rfl, rfl⟩
theorem tyClassify (x : Byte) : Statement (.tyClassify x) := ⟨rfl, rfl⟩
theorem peEmpty : Statement .peEmpty := ⟨rfl, rfl⟩
theorem peDecode (b : EntryBuf) : Statement (.peDecode b) := ⟨rfl, rfl⟩
theorem peEncode (e : EntryIn) : Statement (.peEncode e) := ⟨rfl, rfl⟩
theorem mbrDecode (b : SectorBuf) : Statement (.mbrDecode b) := ⟨rfl, rfl⟩
theorem mbrEncode (k : Bool) (b : BootBuf) (v : Slots EntryIn) : Statement (.mbrEncode k b v) :=
  ⟨rfl, rfl⟩
theorem reservedD : Statement .reservedD := ⟨rfl, rfl⟩
theorem reservedE : Statement .reservedE := ⟨rfl, rfl⟩
theorem reservedF : Statement .reservedF := ⟨rfl, rfl⟩
theorem getCyl (b : ChsBuf) : Statement (.getCyl b) := ⟨rfl, rfl⟩
theorem getHead (b : ChsBuf) : Statement (.getHead b) := ⟨rfl, rfl⟩
theorem getSec (b : ChsBuf) : Statement (.getSec b) := ⟨rfl, rfl⟩
theorem chsEncode (c : BitVec 16) (h s : Byte) : Statement (.chsEncode c h s) := ⟨rfl, rfl⟩
theorem chsSetcyl (b : ChsBuf) (c : BitVec 16) : Statement (.chsSetcyl b c) := ⟨rfl, rfl⟩
theorem chsSethead (b : ChsBuf) (h : Byte) : Statement (.chsSethead b h) := ⟨rfl, rfl⟩
theorem chsSetsec (b : ChsBuf) (s : Byte) : Statement (.chsSetsec b s) := ⟨rfl, rfl⟩
theorem mbrBuild (v : Slots EntryIn) : Statement (.mbrBuild v) := ⟨rfl, rfl⟩
theorem mbrUpdate (b : BootBuf) (v : Slots EntryIn) : Statement (.mbrUpdate b v) := ⟨rfl, rfl⟩

end Sys2Proof.Laws.LineOpcode
end

