-- ==== Sys2Proof/Machine/Script.lean ====
section
/-! DEFINITION. The host's script notation (`30_encoding.md` R54) as a machine of its own beside the
block: host variables, transactions, `EXPECT` and `IF err != 0 STOP`. Host variables belong to the
host and not to the block (R127), so nothing here is part of `State` or of `step`; a script only
performs transactions through `exec` (assumption 15). A buffer of another size than its port is
refused here, at the host level (R94, R111, R128, U18; assumption 20). -/

namespace Sys2Proof.Machine

/-! ## Values of the host -/

/-- A value the host holds: an unsigned number, or a buffer, its bytes in offset order (R7). -/
inductive HostValue where
  | num (n : Nat)
  | bytes (l : List Byte)
deriving DecidableEq, Repr

/-- A host variable, by number. -/
abbrev Var := Nat

/-- The host's variables, most recent assignment first; one that is not listed is unassigned. -/
abbrev Vars := List (Var × HostValue)

/-- The value of a variable, none before its first assignment (R127). -/
def readVar (vs : Vars) (x : Var) : Option HostValue := (vs.find? fun p => p.1 == x).map Prod.snd

/-- The bus value of a buffer: byte `i` on bits `8i+7 : 8i` (R7, R24). -/
def busOfBytes : List Byte → Nat
  | [] => 0
  | b :: bs => b.toNat + 256 * busOfBytes bs

/-- The `n` bytes that a bus of `8n` bits carries, the lowest lane first (R7, R24). -/
def bytesOfBus : Nat → Nat → List Byte
  | 0, _ => []
  | n + 1, v => BitVec.ofNat 8 v :: bytesOfBus n (v / 256)

/-- The number a value is on a bus. -/
def HostValue.bus : HostValue → Nat
  | .num n => n
  | .bytes l => busOfBytes l

/-- `x == v` of an `EXPECT` line: two buffers are equal byte for byte, size included; a number beside a
buffer is compared with its bus value (DESIGN CHOICE, assumption 20). -/
def HostValue.equals : HostValue → HostValue → Bool
  | .bytes l, .bytes m => l == m
  | .bytes l, .num n => busOfBytes l == n
  | .num n, .bytes l => n == busOfBytes l
  | .num n, .num m => n == m

/-- How many bytes an entry output port carries, none for a number: a name is a buffer exactly when it
ends in `_b` (R7). -/
def EntryPort.bufferBytes : EntryPort → Option Nat
  | .chs_first_b => some 3
  | .chs_last_b => some 3
  | .status => none
  | .st_class => none
  | .cyl_first => none
  | .head_first => none
  | .sec_first => none
  | .ptype => none
  | .type_known => none
  | .cyl_last => none
  | .head_last => none
  | .sec_last => none
  | .lba_first => none
  | .lba_length => none
  | .unused => none

/-- How many bytes an output port carries, none for a number (R7, R25). -/
def OutPort.bufferBytes : OutPort → Option Nat
  | .chs_out_b => some 3
  | .lba_out_b => some 4
  | .pe_out_b => some 16
  | .boot_out_b => some 446
  | .slot_pe_b _ => some 16
  | .mbr_out_b => some 512
  | .entry p => p.bufferBytes
  | .slot _ p => p.bufferBytes
  | .err => none
  | .cyl => none
  | .head => none
  | .sec => none
  | .packer_value => none
  | .value => none
  | .consumed => none
  | .remain => none
  | .trunc => none
  | .st_class => none
  | .type_known => none
  | .sig_ok => none

/-- What the host receives from an output port: a buffer of the port's size, or a number. -/
def Outputs.receive (o : Outputs) (p : OutPort) : HostValue :=
  match p.bufferBytes with
  | some n => .bytes (bytesOfBus n (o.read p))
  | none => .num (o.read p)

/-- A value on the right of `<-`: a number, a byte listing, or a host variable (R54). -/
inductive Operand where
  | num (n : Nat)
  | bytes (l : List Byte)
  | var (x : Var)
deriving DecidableEq, Repr

/-- The value of an operand. -/
def Operand.value (vs : Vars) : Operand → Option HostValue
  | .num n => some (.num n)
  | .bytes l => some (.bytes l)
  | .var x => readVar vs x

/-! ## Transactions of a script -/

/-- The mnemonics of R49 and R53, without operands. -/
inductive Mnemonic where
  | chsEmpty
  | chsUnpack
  | chsPack
  | lbaEmpty
  | lbaUnpack
  | lbaPack
  | stClassify
  | tyClassify
  | peEmpty
  | peDecode
  | peEncode
  | mbrDecode
  | mbrEncode
  | reservedD
  | reservedE
  | reservedF
  | getCyl
  | getHead
  | getSec
  | chsEncode
  | chsSetcyl
  | chsSethead
  | chsSetsec
  | mbrBuild
  | mbrUpdate
deriving DecidableEq, Repr

/-- The input ports of a mnemonic in the order of R21: for a buffer port its bytes, which it takes
exactly (R25, R128), for any other none. -/
def Mnemonic.inputBytes : Mnemonic → List (Option Nat)
  | .chsEmpty => []
  | .chsUnpack => [some 3]
  | .chsPack => some 3 :: List.replicate 6 none
  | .lbaEmpty => []
  | .lbaUnpack => [some 4, none]
  | .lbaPack => [none]
  | .stClassify => [none]
  | .tyClassify => [none]
  | .peEmpty => []
  | .peDecode => [some 16]
  | .peEncode => List.replicate 10 none
  | .mbrDecode => [some 512]
  | .mbrEncode => none :: some 446 :: List.replicate 40 none
  | .reservedD => []
  | .reservedE => []
  | .reservedF => []
  | .getCyl => [some 3]
  | .getHead => [some 3]
  | .getSec => [some 3]
  | .chsEncode => [none, none, none]
  | .chsSetcyl => [some 3, none]
  | .chsSethead => [some 3, none]
  | .chsSetsec => [some 3, none]
  | .mbrBuild => List.replicate 40 none
  | .mbrUpdate => some 446 :: List.replicate 40 none

/-- What becomes of a line's input values at its ports. -/
inductive Placed where
  /-- The numbers on the ports. -/
  | ok (l : List Nat)
  /-- A buffer port is offered a buffer of another size, or a variable that holds no buffer. -/
  | wrongSize
  /-- The line has no reading. -/
  | malformed
deriving DecidableEq, Repr

/-- One operand at one port. A buffer port takes a buffer of exactly its size (R94, R111, R128, U18),
or a bus value written in the line as a number; a number port takes no buffer (DESIGN CHOICE,
assumption 20). -/
def placeOne (vs : Vars) (port : Option Nat) (x : Operand) : Placed :=
  match port, x, x.value vs with
  | _, _, none => .malformed
  | some n, _, some (.bytes l) => if l.length = n then .ok [busOfBytes l] else .wrongSize
  | some _, .num _, some (.num v) => .ok [v]
  | some _, _, some (.num _) => .wrongSize
  | none, _, some (.num v) => .ok [v]
  | none, _, some (.bytes _) => .malformed

/-- The operands of a line at its ports, one for one. -/
def place (vs : Vars) : List (Option Nat) → List Operand → Placed
  | [], [] => .ok []
  | p :: ps, x :: xs =>
    match placeOne vs p x, place vs ps xs with
    | .ok l, .ok m => .ok (l ++ m)
    | .wrongSize, _ => .wrongSize
    | .malformed, _ => .malformed
    | .ok _, .wrongSize => .wrongSize
    | .ok _, .malformed => .malformed
  | [], _ :: _ => .malformed
  | _ :: _, [] => .malformed

/-- A number on a port of `w` bits: a narrower value is zero-extended, a number that does not fit has
no reading (R54 states none). -/
def onPort (w n : Nat) : Option (BitVec w) := if n < 2 ^ w then some (BitVec.ofNat w n) else none

/-- A number on a 1-bit port. -/
def onBit (n : Nat) : Option Bool := (onPort 1 n).map fun b => b.getLsbD 0

/-- The ten inputs of an entry from the first ten values, with the values left (R21). -/
def entryOfValues : List Nat → Option (EntryIn × List Nat)
  | st :: c1 :: h1 :: s1 :: ty :: c2 :: h2 :: s2 :: lf :: ll :: rest => do
    let st ← onPort 8 st
    let c1 ← onPort 16 c1
    let h1 ← onPort 8 h1
    let s1 ← onPort 8 s1
    let ty ← onPort 8 ty
    let c2 ← onPort 16 c2
    let h2 ← onPort 8 h2
    let s2 ← onPort 8 s2
    let lf ← onPort 32 lf
    let ll ← onPort 32 ll
    some (⟨st, c1, h1, s1, ty, c2, h2, s2, lf, ll⟩, rest)
  | _ => none

/-- The forty entry inputs, slot 0 first, and no value left (R21). -/
def entriesOfValues (vs : List Nat) : Option (Slots EntryIn) := do
  let (e0, vs) ← entryOfValues vs
  let (e1, vs) ← entryOfValues vs
  let (e2, vs) ← entryOfValues vs
  let (e3, vs) ← entryOfValues vs
  match vs with
  | [] => some ⟨e0, e1, e2, e3⟩
  | _ :: _ => none

/-- The transaction a mnemonic names with its input values in the order of R21; none when the values
are not those of its ports. -/
def assemble : Mnemonic → List Nat → Option Instr
  | .chsEmpty, [] => some .chsEmpty
  | .chsUnpack, [b] => do some (.chsUnpack (← onPort 24 b))
  | .chsPack, [b, wc, wh, ws, c, h, s] => do
    some (.chsPack (← onPort 24 b) (← onBit wc) (← onBit wh) (← onBit ws) (← onPort 16 c)
      (← onPort 8 h) (← onPort 8 s))
  | .lbaEmpty, [] => some .lbaEmpty
  | .lbaUnpack, [b, n] => do some (.lbaUnpack (← onPort 32 b) (← onPort 10 n))
  | .lbaPack, [v] => do some (.lbaPack (← onPort 32 v))
  | .stClassify, [x] => do some (.stClassify (← onPort 8 x))
  | .tyClassify, [x] => do some (.tyClassify (← onPort 8 x))
  | .peEmpty, [] => some .peEmpty
  | .peDecode, [b] => do some (.peDecode (← onPort 128 b))
  | .peEncode, vs => do
    match ← entryOfValues vs with
    | (e, []) => some (.peEncode e)
    | (_, _ :: _) => none
  | .mbrDecode, [b] => do some (.mbrDecode (← onPort 4096 b))
  | .mbrEncode, k :: b :: vs => do
    some (.mbrEncode (← onBit k) (← onPort 3568 b) (← entriesOfValues vs))
  | .reservedD, [] => some .reservedD
  | .reservedE, [] => some .reservedE
  | .reservedF, [] => some .reservedF
  | .getCyl, [b] => do some (.getCyl (← onPort 24 b))
  | .getHead, [b] => do some (.getHead (← onPort 24 b))
  | .getSec, [b] => do some (.getSec (← onPort 24 b))
  | .chsEncode, [c, h, s] => do some (.chsEncode (← onPort 16 c) (← onPort 8 h) (← onPort 8 s))
  | .chsSetcyl, [b, c] => do some (.chsSetcyl (← onPort 24 b) (← onPort 16 c))
  | .chsSethead, [b, h] => do some (.chsSethead (← onPort 24 b) (← onPort 8 h))
  | .chsSetsec, [b, s] => do some (.chsSetsec (← onPort 24 b) (← onPort 8 s))
  | .mbrBuild, vs => do some (.mbrBuild (← entriesOfValues vs))
  | .mbrUpdate, b :: vs => do some (.mbrUpdate (← onPort 3568 b) (← entriesOfValues vs))
  | _, _ => none

/-- A script line (R54). -/
inductive Line where
  /-- `MNEMONIC var=port, … <- value, …`, the values in the port order of R21. -/
  | perform (m : Mnemonic) (results : List (Var × OutPort)) (inputs : List Operand)
  /-- `EXPECT x == value`. -/
  | expect (x : Var) (value : Operand)
  /-- `IF x != 0 STOP`, the host's own branching; R54 writes it for `err` only (DESIGN CHOICE,
  assumption 21). -/
  | stopIf (x : Var)
deriving DecidableEq, Repr

/-- How a script ends. -/
inductive ScriptEnd where
  /-- Every line was performed. -/
  | done (vs : Vars) (s : State)
  /-- An `IF … STOP` line stopped it. -/
  | stopped (vs : Vars) (s : State)
  /-- An `EXPECT` line does not hold. R54 says only that it states what the rules give; that the script
  ends there is a DESIGN CHOICE, assumption 21. -/
  | expectFailed (vs : Vars) (s : State)
  /-- The model refuses a transaction (R51). -/
  | refused (r : Refusal)
  /-- The line offers a buffer port a buffer of another size. It cannot be presented, and the host has
  no operation for it: it is refused at the host level and no transaction is performed (R94, R111,
  R128, U18). -/
  | wrongSize (vs : Vars) (s : State)
  /-- The line reads an unassigned variable, puts a number on a port it does not fit, puts a buffer on
  a number port, or names a result the transaction does not have: R54 gives such a line no meaning. -/
  | malformed

/-- The variables after the named results are received; none when one is no result of the
transaction. An output that is not named is discarded (R54). A variable named twice keeps the last
(DESIGN CHOICE, assumption 21). -/
def receive (vs : Vars) (s : State) : List (Var × OutPort) → Option Vars
  | [] => some vs
  | (x, p) :: rest =>
    if s.results.contains p then receive ((x, s.outputs.receive p) :: vs) s rest else none

/-- Runs a script, its lines in the order written, from the host's variables and a state of the block
(R54). An `EXPECT` that does not hold ends it, and `IF x != 0 STOP` takes any variable, comparing a
buffer's bus value with 0 (DESIGN CHOICE, assumption 21). -/
def runScript : List Line → Vars → State → ScriptEnd
  | [], vs, s => .done vs s
  | .perform m results inputs :: rest, vs, s =>
    match place vs m.inputBytes inputs with
    | .malformed => .malformed
    | .wrongSize => .wrongSize vs s
    | .ok values =>
      match assemble m values with
      | none => .malformed
      | some i =>
        match exec i s with
        | .next t =>
          match receive vs t results with
          | some vs' => runScript rest vs' t
          | none => .malformed
        | .refused r => .refused r
        | .fault r => nomatch r
  | .expect x v :: rest, vs, s =>
    match readVar vs x, v.value vs with
    | some a, some b => if a.equals b then runScript rest vs s else .expectFailed vs s
    | _, _ => .malformed
  | .stopIf x :: rest, vs, s =>
    match readVar vs x with
    | some v => if v.bus = 0 then runScript rest vs s else .stopped vs s
    | none => .malformed

/-- The variables a script leaves, when it ends by its last line or by a `STOP`; no other ending hands
variables on (DESIGN CHOICE, assumption 21). -/
def ScriptEnd.vars : ScriptEnd → Option Vars
  | .done vs _ => some vs
  | .stopped vs _ => some vs
  | .expectFailed _ _ => none
  | .refused _ => none
  | .wrongSize _ _ => none
  | .malformed => none

/-- Did the script end by its last line? -/
def ScriptEnd.isDone : ScriptEnd → Bool
  | .done _ _ => true
  | .stopped _ _ => false
  | .expectFailed _ _ => false
  | .refused _ => false
  | .wrongSize _ _ => false
  | .malformed => false

end Sys2Proof.Machine
end

