-- ==== Sys2Proof/Laws/Script.lean ====
section
/-! SUPPORT. Buffers of the host: a listing and its bus determine each other, and a buffer port takes a
buffer of exactly its size. -/

namespace Sys2Proof.Machine

/-- A bus of `8n` bits carries `n` bytes. -/
@[simp] theorem bytesOfBus_length (n v : Nat) : (bytesOfBus n v).length = n := by
  induction n generalizing v with
  | zero => rfl
  | succ n ih => simp [bytesOfBus, ih]

/-- A buffer of `n` bytes fits a bus of `8n` bits. -/
theorem busOfBytes_lt (l : List Byte) : busOfBytes l < 2 ^ (8 * l.length) := by
  induction l with
  | nil => simp [busOfBytes]
  | cons b bs ih =>
    have hb : b.toNat < 256 := b.isLt
    rw [busOfBytes, List.length_cons, Nat.mul_succ, Nat.pow_add]
    omega

/-- The bytes that a buffer's bus carries are the buffer. -/
theorem bytesOfBus_busOfBytes (l : List Byte) : bytesOfBus l.length (busOfBytes l) = l := by
  induction l with
  | nil => rfl
  | cons b bs ih =>
    have hb : b.toNat < 256 := b.isLt
    have h0 : BitVec.ofNat 8 (b.toNat + 256 * busOfBytes bs) = b := by
      apply BitVec.eq_of_toNat_eq
      rw [BitVec.toNat_ofNat]
      omega
    have h1 : (b.toNat + 256 * busOfBytes bs) / 256 = busOfBytes bs := by omega
    rw [busOfBytes, List.length_cons, bytesOfBus, h0, h1, ih]

/-- What a buffer port takes: a buffer of exactly its size, or a bus value written in the line. -/
theorem placeOne_buffer {vs : Vars} {n : Nat} {x : Operand} {m : List Nat}
    (h : placeOne vs (some n) x = .ok m) :
    (∃ l, x.value vs = some (.bytes l) ∧ l.length = n ∧ m = [busOfBytes l]) ∨
      ∃ v, x = .num v ∧ m = [v] := by
  unfold placeOne at h
  split at h
  · cases h
  · rename_i hv
    split at h
    · rename_i n' l hp hl
      cases hp
      exact .inl ⟨l, hv, hl, (Placed.ok.inj h).symm⟩
    · cases h
  · rename_i hv
    cases hv
    exact .inr ⟨_, rfl, (Placed.ok.inj h).symm⟩
  · cases h
  · rename_i hp _
    cases hp
  · cases h

/-- A listing of another size is refused at a buffer port. -/
theorem placeOne_wrongSize (vs : Vars) {n : Nat} {l : List Byte} (h : l.length ≠ n) :
    placeOne vs (some n) (.bytes l) = .wrongSize := if_neg h

/-- A named result is received exactly when the transaction hands it over (R50, R54). -/
theorem receive_cons (vs : Vars) (s : State) (x : Var) (p : OutPort) (rest : List (Var × OutPort)) :
    receive vs s ((x, p) :: rest) =
      if p ∈ s.results then receive ((x, s.outputs.receive p) :: vs) s rest else none := by
  simp [receive]

/-- A line whose operands are refused for their size performs no transaction (R94, R111, R128). -/
theorem runScript_wrongSize {vs : Vars} {s : State} {m : Mnemonic} {results : List (Var × OutPort)}
    {inputs : List Operand} {rest : List Line} (h : place vs m.inputBytes inputs = .wrongSize) :
    runScript (.perform m results inputs :: rest) vs s = .wrongSize vs s := by
  simp [runScript, h]

end Sys2Proof.Machine
end

