-- ==== Sys2Proof/Tests/Slice0.lean ====
section
/-! SUPPORT. Small tests: expected values are those of `spec/95_test_vectors.md` (the vector's name
stands with each test), words are written out from `30_encoding.md` R49 and R54. Then one witness for
each statement that has hypotheses. -/

namespace Sys2Proof.Tests

open Sys2Proof Sys2Proof.Machine

/-! ## Helpers -/

/-- The state after an outcome, if there is one. -/
def stateOf (o : Host.Outcome State Fault Refusal) : Option State :=
  match o with
  | .next t => some t
  | .fault r => nomatch r
  | .refused _ => none

/-- What a refusal says. -/
def refusalOf (o : Host.Outcome State Fault Refusal) : Option Refusal :=
  match o with
  | .next _ => none
  | .fault r => nomatch r
  | .refused r => some r

/-- Was the script refused for the size of a buffer? -/
def isWrongSize : ScriptEnd → Bool
  | .wrongSize _ _ => true
  | .done _ _ => false
  | .stopped _ _ => false
  | .expectFailed _ _ => false
  | .refused _ => false
  | .malformed => false

/-- The state after one step on one line, from reset. -/
def stepOn (w : ReqWord) : Option State := stateOf (step (State.reset.withLine w))

/-- The bus of the record of S8a: `80 01 01 00 07 FE FF FF 3F 00 00 00 41 0B 0F 00`. -/
def recordBus : EntryBuf := 0x000F0B410000003FFFFFFE0700010180#128

/-- The ten fields of that record (V-PE-10). -/
def record : EntryIn := ⟨0x80, 0, 1, 1, 0x07, 1023, 254, 63, 63, 985921⟩

/-- 446 bytes of value 0x90. -/
def boot90 : BootBuf := BitVec.ofNat 3568 (0x90 * ((2 ^ 3568 - 1) / 255))

/-- V-MBR-10: the record in slot 3, bus bits 4079:3952, and the signature `55 AA`. -/
def sectorSlot3 : SectorBuf :=
  (0xAA55#4096 <<< 4080) ||| (recordBus.setWidth 4096 <<< 3952)

/-- V-MBR-7: 446 bytes 0x90, the record in slot 0, bus bits 3695:3568, the signature. -/
def sectorBoot90 : SectorBuf :=
  (0xAA55#4096 <<< 4080) ||| (recordBus.setWidth 4096 <<< 3568) ||| boot90.setWidth 4096

/-- V-MBR-3: signature bytes swapped. -/
def sectorSwapped : SectorBuf := 0x55AA#4096 <<< 4080

/-! ## Well-formedness: each check refuses an ill-formed term -/

theorem test_reservedD_is_ill_formed : Instr.reservedD.wellFormed = false := by decide
theorem test_reservedE_is_ill_formed : Instr.reservedE.wellFormed = false := by decide
theorem test_reservedF_is_ill_formed : Instr.reservedF.wellFormed = false := by decide
theorem test_cylinder_1024_is_out_of_range :
    ({ record with cyl_last_in := 1024 } : EntryIn).inRange = false := by decide
theorem test_first_cylinder_1024_is_out_of_range :
    ({ record with cyl_first_in := 1024 } : EntryIn).inRange = false := by decide
theorem test_sector_64_is_out_of_range :
    ({ record with sec_first_in := 64 } : EntryIn).inRange = false := by decide
theorem test_last_sector_64_is_out_of_range :
    ({ record with sec_last_in := 64 } : EntryIn).inRange = false := by decide

/-! ## Decoding: words written out from R49, R54 and the port order of R21 -/

theorem test_decode_chsEmpty : decode 0x0 = .chsEmpty := by decide
/-- P3 line 4: `chs_b` = 0x3D3FFE. -/
theorem test_decode_chsUnpack : decode 0x3D3FFE1 = .chsUnpack 0x3D3FFE#24 := by decide
/-- V-CHS-31: base `[DE AD BE]`, enables 1 0 1, `cyl_in` 0x155, `sec_in` 0x2A. -/
theorem test_decode_chsPack : decode 0x150000AADBEADDE2 =
    .chsPack 0xBEADDE#24 true false true 0x155#16 0x00#8 0x2A#8 := by decide
theorem test_decode_lbaEmpty : decode 0x3 = .lbaEmpty := by decide
/-- V-LBA-12: lanes `78 56 34 12`, `avail` = 8. -/
theorem test_decode_lbaUnpack : decode 0x8123456784 = .lbaUnpack 0x12345678#32 8#10 := by decide
theorem test_decode_lbaPack : decode 0xDEADBEEF5 = .lbaPack 0xDEADBEEF#32 := by decide
theorem test_decode_stClassify : decode 0x816 = .stClassify 0x81#8 := by decide
theorem test_decode_tyClassify : decode 0x077 = .tyClassify 0x07#8 := by decide
theorem test_decode_peEmpty : decode 0x8 = .peEmpty := by decide
/-- P1 line 1. -/
theorem test_decode_peDecode :
    decode 0x000F0B410000003FFFFFFE07000101809 = .peDecode recordBus := by decide
/-- P1 line 2. -/
theorem test_decode_peEncode :
    decode 0xF0B410000003F3FFE03FF070101000080A = .peEncode record := by decide
/-- V-MBR-10's sector from bit 4 on. -/
theorem test_decode_mbrDecode :
    decode (0xB + 16 * (0xAA55 * 2 ^ 4080 + 0x000F0B410000003FFFFFFE0700010180 * 2 ^ 3952)) =
      .mbrDecode sectorSlot3 := by decide +kernel
/-- V-MBR-23 with a bootstrap of 0x90 at offset 445: `boot_keep` at bit 4, `boot_in_b` from bit 5,
slot 3 from bit 4005. -/
theorem test_decode_mbrEncode :
    decode (0xC + 2 ^ 4 + 0x90 * 2 ^ (5 + 3560) + 0xF0B410000003F3FFE03FF070101000080 * 2 ^ 4005) =
      .mbrEncode true (0x90#3568 <<< 3560) ⟨.zero, .zero, .zero, record⟩ := by decide +kernel
theorem test_decode_reservedD : decode 0xD = .reservedD := by decide
theorem test_decode_reservedE : decode 0xE = .reservedE := by decide
theorem test_decode_reservedF : decode 0xF = .reservedF := by decide

/-! A pseudo-operation has the word of its expansion (R54). -/

theorem test_word_getCyl : encode (.getCyl 0x344012) = 0x3440121 := by decide
theorem test_word_getHead : encode (.getHead 0x344012) = 0x3440121 := by decide
theorem test_word_getSec : encode (.getSec 0x569CAB) = 0x569CAB1 := by decide
theorem test_word_chsEncode : encode (.chsEncode 500 10 20) = 0xA0500FA70000002 := by decide
/-- P3 line 3. -/
theorem test_word_chsSetcyl : encode (.chsSetcyl 0xFFFFFE 0x3D) = 0x1E9FFFFFE2 := by decide
theorem test_word_chsSethead : encode (.chsSethead 0x229109 0xFE) = 0x7F000022291092 := by decide
theorem test_word_chsSetsec : encode (.chsSetsec 0x228009 17) = 0x880000042280092 := by decide
theorem test_word_mbrBuild :
    encode (.mbrBuild ⟨.zero, .zero, .zero, record⟩) =
      0xC + 0xF0B410000003F3FFE03FF070101000080 * 2 ^ 4005 := by decide +kernel
theorem test_word_mbrUpdate :
    encode (.mbrUpdate (0x90#3568 <<< 3560) ⟨record, .zero, .zero, .zero⟩) =
      0xC + 2 ^ 4 + 0x90 * 2 ^ 3565 + 0xF0B410000003F3FFE03FF070101000080 * 2 ^ 3573 := by
  decide +kernel
theorem test_word_of_chsSetcyl_decodes_to_expansion :
    decode 0x1E9FFFFFE2 = .chsPack 0xFFFFFE true false false 0x3D 0 0 := by decide

/-! The host's two entries. -/

/-- Bits above the ones the caller gives are zero. -/
theorem test_decodeTableWord : decodeTableWord 8 0x14 = some (.lbaUnpack 1 0) := by decide
theorem test_withFetchWord :
    (stateOf (step (State.reset.withFetchWord 28 0x569CAB1))).map
      (fun t => t.received) = some [(.cyl, 598), (.head, 171), (.sec, 28), (.err, 0)] := by
  decide +kernel

/-! ## CHS -/

/-- V-CHS-0. -/
theorem test_chsEmpty : (responseTo .chsEmpty).chsPacker.chs_out_b = 0x000000 := by decide
/-- V-CHS-8. -/
theorem test_chsUnpack : (responseTo (.chsUnpack 0x569CAB)).chsUnpacker = ⟨598, 171, 28⟩ := by decide
/-- V-CHS-9: a cylinder above 255 needs the widening of R70. -/
theorem test_chsUnpack_high : (responseTo (.chsUnpack 0xFF8000)).chsUnpacker = ⟨767, 0, 0⟩ := by
  decide
/-- V-CHS-31. -/
theorem test_chsPack : (responseTo (.chsPack 0xBEADDE true false true 0x155 0x77 0x2A)).chsPacker =
    ⟨0x556ADE⟩ := by decide
/-- V-CHS-30. -/
theorem test_chsPack_no_enable :
    (responseTo (.chsPack 0xBEADDE false false false 0x3FF 0xFF 0x3F)).chsPacker = ⟨0xBEADDE⟩ := by
  decide
/-- V-CHS-7. -/
theorem test_getCyl : (stateOf (exec (.getCyl 0x344012) State.reset)).map (·.received) =
    some [(.cyl, 308), (.err, 0)] := by decide +kernel
/-- V-CHS-7. -/
theorem test_getHead : (stateOf (exec (.getHead 0x344012) State.reset)).map (·.received) =
    some [(.head, 18), (.err, 0)] := by decide +kernel
/-- The example of R60. -/
theorem test_getSec : (stateOf (exec (.getSec 0x569CAB) State.reset)).map (·.received) =
    some [(.sec, 28), (.err, 0)] := by decide +kernel
/-- V-CHS-22. -/
theorem test_chsEncode : (responseTo (.chsEncode 500 10 20)).chsPacker = ⟨0xF4540A⟩ := by decide
/-- V-CHS-26: both truncations. -/
theorem test_chsEncode_truncates : (responseTo (.chsEncode 0x7FF 0x10 0x7F)).chsPacker =
    ⟨0xFFFF10⟩ := by decide
/-- V-CHS-45. -/
theorem test_chsSetcyl : (responseTo (.chsSetcyl 0x001107 0x2A5)).chsPacker = ⟨0xA59107⟩ := by decide
/-- V-CHS-42. -/
theorem test_chsSetcyl_1024 : (responseTo (.chsSetcyl 0x771512 0x400)).chsPacker = ⟨0x001512⟩ := by
  decide
/-- V-CHS-49. -/
theorem test_chsSethead : (responseTo (.chsSethead 0x229109 0xFE)).chsPacker = ⟨0x2291FE⟩ := by decide
/-- V-CHS-46. -/
theorem test_chsSetsec : (responseTo (.chsSetsec 0x224000 0xFF)).chsPacker = ⟨0x227F00⟩ := by decide

/-! ## LBA -/

/-- V-LBA-0. -/
theorem test_lbaEmpty : (responseTo .lbaEmpty).lbaPacker = ⟨0, 0⟩ := by decide
/-- V-LBA-12. -/
theorem test_lbaUnpack : (responseTo (.lbaUnpack 0x12345678 8)).lbaUnpacker =
    ⟨0x12345678, 4, 4, false⟩ := by decide
/-- V-LBA-23, without the filler `value`. -/
theorem test_lbaUnpack_short :
    (responseTo (.lbaUnpack 0xFF00003F 3)).err = .truncatedInput ∧
    (responseTo (.lbaUnpack 0xFF00003F 3)).lbaUnpacker.remain = 3 := by decide
/-- V-LBA-6, bytes in offset order. -/
theorem test_lbaPack :
    (responseTo (.lbaPack 0x12345678)).lbaPacker.lba_out_b = bytes4 0x78 0x56 0x34 0x12 := by decide

/-! ## Status and type -/

/-- V-ST-2. -/
theorem test_stClassify_bootable : (responseTo (.stClassify 0x80)).enumClassifier.st_class.code = 1 := by
  decide
/-- V-ST-5. -/
theorem test_stClassify_81 : (responseTo (.stClassify 0x81)).enumClassifier.st_class.code = 2 := by
  decide
/-- V-TY-1. -/
theorem test_tyClassify_empty : (responseTo (.tyClassify 0x00)).enumClassifier.type_known = true := by
  decide
/-- V-TY-2. -/
theorem test_tyClassify_07 : (responseTo (.tyClassify 0x07)).enumClassifier.type_known = true := by
  decide

/-! ## Partition entry -/

/-- V-PE-0. -/
theorem test_peEmpty : (responseTo .peEmpty).partitionEncoder.pe_out_b = 0 := by decide
/-- V-PE-6: `81 12 9C 56 83 AB 40 34 00 08 00 00 00 00 10 00`. -/
theorem test_peDecode :
    fieldsOf (responseTo (.peDecode 0x00100000000008003440AB83569C1281)).partitionDecoder =
      ⟨0x81, 598, 18, 28, 0x83, 308, 171, 0, 2048, 1048576⟩ := by decide
/-- V-PE-7: `7F FF FF FF 00 00 00 00 EF BE AD DE 00 00 00 00` is unused. -/
theorem test_peDecode_unused :
    (responseTo (.peDecode 0x00000000DEADBEEF00000000FFFFFF7F)).partitionDecoder.unused = true := by
  decide
/-- V-PE-11 (S8b). -/
theorem test_peEncode :
    (responseTo (.peEncode { record with lba_length_in := 1000001 })).partitionEncoder.pe_out_b =
      0x000F42410000003FFFFFFE0700010180#128 := by decide
/-- V-PE-14: `00 10 FF FF 0C 00 00 00 00 08 00 00 00 00 10 00`. -/
theorem test_peEncode_truncates :
    (responseTo (.peEncode ⟨0, 0x7FF, 0x10, 0x7F, 0x0C, 0x400, 0, 0x40, 2048, 0x100000⟩)).partitionEncoder.pe_out_b =
      0x00100000000008000000000CFFFF1000#128 := by decide

/-! ## Sector -/

/-- V-MBR-10: the record is in slot 3, and the other slots are unused. -/
theorem test_mbrDecode :
    let d := (responseTo (.mbrDecode sectorSlot3)).sectorDecoder
    d.sig_ok = true ∧ fieldsOf d.slots.s3.entry = record ∧ d.slots.s0.entry.unused = true ∧
      d.slots.s3.pe_b = recordBus := by decide +kernel
/-- V-MBR-3. -/
theorem test_mbrDecode_swapped :
    (responseTo (.mbrDecode sectorSwapped)).err = .invalidSignature := by decide +kernel
/-- V-MBR-22. -/
theorem test_mbrEncode_keep :
    (responseTo (.mbrEncode true boot90 ⟨record, .zero, .zero, .zero⟩)).sectorEncoder.mbr_out_b =
      sectorBoot90 := by decide +kernel
/-- V-MBR-21 with the record in slot 3: `boot_keep` = 0 ignores `boot_in_b`. -/
theorem test_mbrEncode_zero_fill :
    (responseTo (.mbrEncode false boot90 ⟨.zero, .zero, .zero, record⟩)).sectorEncoder.mbr_out_b =
      sectorSlot3 := by decide +kernel
/-- The example of R105 with the record in slot 3. -/
theorem test_mbrBuild :
    (responseTo (.mbrBuild ⟨.zero, .zero, .zero, record⟩)).sectorEncoder.mbr_out_b = sectorSlot3 := by
  decide +kernel
/-- V-MBR-22 as `MBR_UPDATE`. -/
theorem test_mbrUpdate :
    (responseTo (.mbrUpdate boot90 ⟨record, .zero, .zero, .zero⟩)).sectorEncoder.mbr_out_b =
      sectorBoot90 := by decide +kernel

/-! ## Reserved codes, held requests, scripts -/

/-- V-OP-1. -/
theorem test_reservedD : refusalOf (exec .reservedD State.reset) = some (.reservedOpcode 0xD) := by
  decide
theorem test_reservedE : refusalOf (exec .reservedE State.reset) = some (.reservedOpcode 0xE) := by
  decide
theorem test_reservedF :
    refusalOf (step (State.reset.withLine 0xF)) = some (.reservedOpcode 0xF) := by decide
/-- With no line to present, the wires at reset request `CHS_EMPTY`. -/
theorem test_first_step_from_reset :
    (stateOf (step State.reset)).map (·.received) = some [(.chs_out_b, 0), (.err, 0)] := by
  decide +kernel
/-- One script line, R54's example of a byte listing: `CHS_UNPACK c=cyl <- chs_b=[FE FF FF]`, then
`EXPECT c == 1023`. -/
theorem test_script_line :
    (runScript [.perform .chsUnpack [(0, .cyl)] [.bytes [0xFE, 0xFF, 0xFF]], .expect 0 (.num 1023)]
      [] State.reset).vars = some [(0, .num 1023)] := by decide +kernel
/-- `IF err != 0 STOP` after `LBA_UNPACK` with two bytes (P4 lines 5, 6). -/
theorem test_script_stops :
    (runScript [.perform .lbaUnpack [(1, .err)] [.bytes [0xAA, 0xBB, 0, 0], .num 2], .stopIf 1,
      .perform .chsEmpty [] []] [] State.reset).isDone = false := by decide +kernel

/-- U18: a buffer of another size is refused at the host level, one byte short and one byte long. -/
theorem test_script_short_entry :
    isWrongSize (runScript [.perform .peDecode [] [.bytes (List.replicate 15 0)]] [] State.reset) =
      true := by decide +kernel
theorem test_script_long_chs :
    isWrongSize (runScript [.perform .chsUnpack [] [.bytes [0xFE, 0xFF, 0xFF, 0x00]]] [] State.reset) =
      true := by decide +kernel
theorem test_script_sector_sizes :
    placeOne [] (some 512) (.bytes (List.replicate 511 0)) = .wrongSize ∧
      placeOne [] (some 512) (.bytes (List.replicate 513 0)) = .wrongSize ∧
      placeOne [] (some 512) (.bytes (List.replicate 512 0)) = .ok [0] := by decide +kernel
/-- `err` is an output of a pseudo-operation too: `CHS_SETCYL x=chs_out_b, e=err <- …`. -/
theorem test_script_pseudo_err :
    (runScript [.perform .chsSetcyl [(0, .chs_out_b), (1, .err)] [.num 0xFFFFFE, .num 61]] []
      State.reset).vars = some [(1, .num 0), (0, .bytes [0xFE, 0x3F, 0x3D])] := by decide +kernel
/-- A buffer goes from an output to an input whole: `CHS_SETCYL` on a variable (P3 line 3). -/
theorem test_script_buffer_variable :
    (runScript [.perform .chsSetcyl [(1, .chs_out_b)] [.var 0, .num 61]]
      [(0, .bytes [0xFE, 0xFF, 0xFF])] State.reset).vars =
      some [(1, .bytes [0xFE, 0x3F, 0x3D]), (0, .bytes [0xFE, 0xFF, 0xFF])] := by decide +kernel
/-- The column `unit` of R49. -/
theorem test_units :
    ([0x0, 0x1, 0x2, 0x3, 0x4, 0x5, 0x6, 0x7, 0x8, 0x9, 0xA, 0xB, 0xC, 0xD, 0xE, 0xF] :
        List (BitVec 4)).map unitOf =
      [some .chsPacker, some .chsUnpacker, some .chsPacker, some .lbaPacker, some .lbaUnpacker,
        some .lbaPacker, some .enumClassifier, some .enumClassifier, some .partitionEncoder,
        some .partitionDecoder, some .partitionEncoder, some .sectorDecoder, some .sectorEncoder,
        none, none, none] := by decide

/-! ## Witnesses: for each statement with hypotheses, inputs that meet them all -/

theorem witness_DecodeEncode :
    (Instr.mbrEncode true boot90 ⟨record, .zero, .zero, .zero⟩).wellFormed = true ∧
      (Instr.mbrEncode true boot90 ⟨record, .zero, .zero, .zero⟩).isCore = true ∧
      (Instr.getCyl 0x344012).wellFormed = true := by decide

theorem witness_StepRunsTheDecodedLine :
    (State.reset.withLine 0x569CAB1).script = 0x569CAB1 :: [] ∧ State.reset.script = [] := by decide

theorem witness_ReservedCodesAreRefused : 0xD ≤ (opOf 0xD).toNat ∧ 0xD ≤ (opOf 0xF).toNat := by decide

theorem witness_PseudoOperationIsItsExpansion :
    (Instr.chsSetcyl 0xFFFFFE 61).wellFormed = true ∧ Instr.peEmpty.wellFormed = true := by decide

/-- The first and the last bit of each sub-field, with its enable 0 and the other two 1. -/
theorem witness_ChsSubFieldsDoNotOverlap :
    (0 < 24 ∧ (if 0 < 8 then false else if 0 < 14 then true else true) = false) ∧
    (7 < 24 ∧ (if 7 < 8 then false else if 7 < 14 then true else true) = false) ∧
    (8 < 24 ∧ (if 8 < 8 then true else if 8 < 14 then false else true) = false) ∧
    (13 < 24 ∧ (if 13 < 8 then true else if 13 < 14 then false else true) = false) ∧
    (14 < 24 ∧ (if 14 < 8 then true else if 14 < 14 then true else false) = false) ∧
    (23 < 24 ∧ (if 23 < 8 then true else if 23 < 14 then true else false) = false) := by decide

theorem witness_ChsSettersReadBack : (1023#16).toNat ≤ 1023 := by decide

/-- In range at the boundary, and just out of it. -/
theorem witness_ChsUnpackAfterPack :
    ((1023#16).toNat ≤ 1023 ∧ (63#8).toNat ≤ 63) ∧ ¬ (1024#16).toNat ≤ 1023 ∧ ¬ (64#8).toNat ≤ 63 := by
  decide

theorem witness_LbaUnpackDecodesFourBytes : 4 ≤ (4#10).toNat ∧ 4 ≤ (1023#10).toNat := by decide

theorem witness_TruncatedInputExactlyWhenShort :
    (∃ t, exec (.lbaUnpack 0xFF00003F 3) State.reset = .next t) ∧ (3#10).toNat < 4 ∧
      (0#10).toNat < 4 := ⟨⟨_, rfl⟩, by decide, by decide⟩

theorem witness_LbaNoReadOutOfBounds :
    (3#10).toNat < 4 ∧ 4 ≤ (4#10).toNat ∧
      (responseTo (.lbaUnpack 0x3F 4)).lbaUnpacker.value =
        (responseTo (.lbaUnpack 0x3F 4)).lbaUnpacker.value := by decide

/-- `avail` = 8; 4 and 7; 3 and 0. -/
theorem witness_LbaChain :
    8 ≤ (8#10).toNat ∧ (4 ≤ (4#10).toNat ∧ (4#10).toNat < 8) ∧
      (4 ≤ (7#10).toNat ∧ (7#10).toNat < 8) ∧ (3#10).toNat < 4 ∧ (0#10).toNat < 4 := by decide

theorem witness_LbaRoundTrip : 4 ≤ (4#10).toNat ∧ 4 ≤ (1023#10).toNat := by decide

/-- A buffer of five bytes, and one of three whose fourth lane carries anything (V-LBA-23). -/
theorem witness_LbaUnpackOfAHostBuffer :
    ((5#10).toNat = [0x3F#8, 0, 0, 0, 0x41].length ∧
      ∀ i < 4, ∀ x, [0x3F#8, 0, 0, 0, 0x41][i]? = some x → byteAt (0x0000003F#32) i = x) ∧
    ((3#10).toNat = [0x3F#8, 0, 0].length ∧
      ∀ i < 4, ∀ x, [0x3F#8, 0, 0][i]? = some x → byteAt (0xFF00003F#32) i = x) := by decide

theorem witness_EntryDecodeAfterEncode :
    (⟨0x81, 1023, 255, 63, 0xEE, 1023, 254, 63, 1, 0xFFFFFFFF⟩ : EntryIn).inRange = true := by decide

/-- Two different entries that agree on the bytes of `status`, and two that agree on the field of the
first and last byte of each field. -/
theorem witness_EntryFieldsAreIndependent :
    (∀ k ∈ EntryPort.status.ownBytes, byteAt recordBus k = byteAt (0x80#128) k) ∧
    recordBus ≠ 0x80#128 ∧ sameEntryFieldAt 0 record { record with ptype_in := 0 } ∧
    sameEntryFieldAt 1 record { record with ptype_in := 0 } ∧
    sameEntryFieldAt 3 record { record with ptype_in := 0 } ∧
    sameEntryFieldAt 4 record { record with status_in := 0 } ∧
    sameEntryFieldAt 5 record { record with ptype_in := 0 } ∧
    sameEntryFieldAt 7 record { record with ptype_in := 0 } ∧
    sameEntryFieldAt 8 record { record with ptype_in := 0 } ∧
    sameEntryFieldAt 11 record { record with ptype_in := 0 } ∧
    sameEntryFieldAt 12 record { record with ptype_in := 0 } ∧
    sameEntryFieldAt 15 record { record with ptype_in := 0 } := by
  refine ⟨by decide, by decide, ?_⟩
  simp [sameEntryFieldAt]

theorem witness_MbrDecodeGivesFourEntries :
    byteAt sectorSlot3 510 = 0x55 ∧ byteAt sectorSlot3 511 = 0xAA := by decide +kernel

/-- `MBR_DECODE` answers on every sector. -/
theorem mbrDecode_answers (B : SectorBuf) (s : State) : ∃ t, exec (.mbrDecode B) s = .next t :=
  ⟨s.answered (.mbrDecode B) (mbrDecodeOutputs B), rfl⟩

/-- A sector with the bytes swapped, and one with byte 510 alone right (V-MBR-3, V-MBR-4). -/
theorem witness_InvalidSignatureExactlyWithoutSignature :
    (∃ t, exec (.mbrDecode sectorSwapped) State.reset = .next t) ∧
    ¬ (byteAt sectorSwapped 510 = 0x55 ∧ byteAt sectorSwapped 511 = 0xAA) ∧
    ¬ (byteAt (0x0055#4096 <<< 4080) 510 = 0x55 ∧ byteAt (0x0055#4096 <<< 4080) 511 = 0xAA) :=
  ⟨mbrDecode_answers _ _, by decide +kernel, by decide +kernel⟩

/-- The first and last index of each clause. -/
theorem witness_MbrEncodeWritesEveryByte :
    0 < 446 ∧ 445 < 446 ∧ 0 < 16 ∧ 15 < 16 ∧ 446 + 16 * (3 : Fin 4).val + 15 < 510 := by decide

theorem witness_MbrBuildAndUpdateAreEncodes :
    (0 : BootBuf) = 0 ∧ 445 < 446 ∧ 15 < 16 ∧ 446 + 16 * (3 : Fin 4).val + 15 < 510 :=
  ⟨Eq.refl 0, by decide⟩

/-- A sector with the signature, and the first and last byte of the bootstrap. -/
theorem witness_BootstrapIsOpaque_copy :
    byteAt sectorBoot90 510 = 0x55 ∧ byteAt sectorBoot90 511 = 0xAA ∧ 0 < 446 ∧ 445 < 446 ∧
      446 ≤ 446 ∧ 446 ≤ 511 := by decide +kernel

/-- Two sectors that differ in byte 445 and agree from byte 446 on. -/
theorem witness_BootstrapIsOpaque :
    (∀ i, 446 ≤ i → byteAt (0#4096) i = byteAt (0x90#4096 <<< 3560) i) ∧
      byteAt (0#4096) 445 ≠ byteAt (0x90#4096 <<< 3560) 445 ∧ OutPort.sig_ok ≠ .boot_out_b := by
  refine ⟨fun i hi => ?_, by decide +kernel, by decide⟩
  apply BitVec.eq_of_getLsbD_eq
  intro j hj
  have h : Nat.testBit 0x90 (8 * i + j - 3560) = false :=
    Nat.testBit_lt_two_pow (Nat.lt_of_lt_of_le (by decide : 0x90 < 2 ^ 8)
      (Nat.pow_le_pow_right (by decide) (by omega)))
  simp only [byteAt, BitVec.getLsbD_extractLsb', BitVec.getLsbD_shiftLeft, BitVec.getLsbD_ofNat,
    Nat.zero_testBit, h, Bool.and_false]

theorem witness_SectorUpdateAfterDecode :
    (responseTo (.mbrDecode sectorBoot90)).sectorDecoder.sig_ok = true := by decide +kernel

/-- Two states with the same next transaction: one holds it, the other has it as its first line. -/
theorem witness_ResponseIsAFunctionOfTheRequest :
    nextInstr State.reset = nextInstr (State.reset.withLine 0x0) ∧
      (∃ t, step State.reset = .next t) ∧ (Instr.chsUnpack 0).wellFormed = true :=
  ⟨by decide, ⟨_, rfl⟩, by decide⟩

theorem witness_PortsOutsideTheOperation :
    (∃ t, exec .chsEmpty State.reset = .next t) ∧ OutPort.cyl ∉ resultPorts (Instr.expand .chsEmpty) :=
  ⟨⟨_, rfl⟩, by decide⟩

/-- A step that answers, one that answers a failure, and one on wires left by another request. -/
theorem witness_StepKeepsFlagsAgreeing :
    (∃ t, step State.reset = .next t) ∧
      (stepOn 0x30000003F4).map (fun t => t.outputs.err) = some .truncatedInput :=
  ⟨⟨_, rfl⟩, by decide +kernel⟩

theorem witness_StepKeepsResponseBesideRequest :
    (∃ t, step (State.reset.withLine 0x569CAB1) = .next t) ∧
      (stepOn 0x569CAB1).map (fun t => t.outputs.chsUnpacker.cyl) = some 598 :=
  ⟨⟨_, rfl⟩, by decide +kernel⟩

theorem witness_HeldRequestKeepsItsResponse :
    (State.reset.withLine 0x569CAB1).script.length ≤ 1 ∧
      (∃ t, step (State.reset.withLine 0x569CAB1) = .next t) ∧ State.reset.script.length ≤ 1 ∧
      ∃ t, step State.reset = .next t :=
  ⟨by decide, ⟨_, rfl⟩, by decide, ⟨_, rfl⟩⟩

theorem witness_EveryScriptEnds :
    ((State.reset.withLine 0x8).withLine 0x569CAB1).issuable = true ∧
      ((State.reset.withLine 0x8).withLine 0x569CAB1).script = [0x569CAB1] ++ [0x8] := by decide

/-- `LBA_UNPACK` with three bytes, then `CHS_UNPACK` of `[AB 9C 56]`. -/
theorem witness_FailureLeavesNothingBehind :
    let s := (State.reset.withLine 0x569CAB1).withLine 0x3FF00003F4
    s.script = 0x3FF00003F4 :: 0x569CAB1 :: [] ∧
      ∃ t u, step s = .next t ∧ t.outputs.err ≠ .noFailure ∧ step t = .next u := by
  refine ⟨by decide, _, _, rfl, ?_, rfl⟩
  decide +kernel

end Sys2Proof.Tests
end

/-! PROOFS of the state family (`10_state.md`): the widths of the output ports (R21), the response as
a function of the request alone (R10), and the document's partition entry against its sixteen bytes
(R19). The facts about shared operations come first, the obligations last. -/

namespace Sys2Proof.Machine

/-! ## What a transaction can do -/

/-- Every operation is one transaction whose response is fixed before the state is known (R10, R50). -/
theorem exec_eq_transact_of_wellFormed {i : Instr} (h : i.wellFormed = true) :
    ∃ o, ∀ s, exec i s = transact i o s := by
  cases i with
  | reservedD | reservedE | reservedF => cases h
  | _ => exact ⟨_, fun _ => rfl⟩

/-- A request that is answered names an operation: the reserved codes are refused (R51). -/
theorem wellFormed_of_exec_next {i : Instr} {s t : State} (h : exec i s = .next t) :
    i.wellFormed = true := by
  cases i with
  | reservedD | reservedE | reservedF => cases h
  | _ => rfl

/-- `responseTo` is the response that a transaction fixes. -/
theorem responseTo_of_exec_eq_transact {i : Instr} {o : Outputs}
    (h : ∀ s, exec i s = transact i o s) : responseTo i = o := by
  simp only [responseTo, h, transact_eq, State.answered_outputs]

/-- A well-formed instruction is answered in every state, with its response at reset. -/
theorem exec_eq_answered {i : Instr} (h : i.wellFormed = true) (s : State) :
    exec i s = .next (s.answered i (responseTo i)) := by
  obtain ⟨o, ho⟩ := exec_eq_transact_of_wellFormed h
  rw [ho, responseTo_of_exec_eq_transact ho, transact_eq]

/-- All that performing an instruction can do. -/
theorem exec_eq_next_iff {i : Instr} {s t : State} :
    exec i s = .next t ↔ i.wellFormed = true ∧ t = s.answered i (responseTo i) := by
  constructor
  · intro h
    have hwf := wellFormed_of_exec_next h
    rw [exec_eq_answered hwf] at h
    exact ⟨hwf, (Host.Outcome.next.inj h).symm⟩
  · rintro ⟨hwf, rfl⟩
    exact exec_eq_answered hwf s

/-- The response of `PE_EMPTY` (R88). -/
@[simp] theorem responseTo_peEmpty :
    responseTo .peEmpty = { Outputs.zero with partitionEncoder := ⟨bytes16 0 0 0 0⟩ } := rfl

/-! ## Numbers on the output ports -/

/-- A flag fits a 1-bit port. -/
theorem bitVal_lt (b : Bool) : bitVal b < 2 ^ 1 := Bool.toNat_lt b

/-- Every entry output port carries a number of its width (R21). -/
theorem EntryOut.read_lt (e : EntryOut) (p : EntryPort) : e.read p < 2 ^ p.width := by
  cases p with
  | type_known | unused => exact bitVal_lt _
  | _ => exact BitVec.isLt _

/-- Every output port carries a number of its width (R21). -/
theorem Outputs.read_lt (o : Outputs) (p : OutPort) : o.read p < 2 ^ p.width := by
  cases p with
  | trunc | type_known | sig_ok => exact bitVal_lt _
  | entry p => exact EntryOut.read_lt _ p
  | slot k p => exact EntryOut.read_lt _ p
  | _ => exact BitVec.isLt _

/-! ## Buffers and their bytes -/

/-- A buffer read out of a larger one is the buffer with the bytes found there (R8). -/
theorem memRead_eq_of_byteAt_eq {w off n : Nat} {b : BitVec w} {x : BitVec (8 * n)}
    (h : ∀ i < n, byteAt b (off + i) = byteAt x i) : memRead b off n = x :=
  eq_of_byteAt_eq fun i hi => (byteAt_memRead b hi).trans (h i hi)

/-- A buffer is the four bytes it holds (R7). -/
theorem bytes4_byteAt (b : LbaBuf) :
    bytes4 (byteAt b 0) (byteAt b 1) (byteAt b 2) (byteAt b 3) = b := by
  refine eq_of_byteAt_eq (n := 4) fun i hi => ?_
  interval_cases i <;> simp only [byteAt_bytes4]

/-- Four bytes in a row are the 4-byte buffer read there (R7, R8). -/
theorem bytes4_byteAt_eq_memRead {w : Nat} (b : BitVec w) (off : Nat) :
    bytes4 (byteAt b off) (byteAt b (off + 1)) (byteAt b (off + 2)) (byteAt b (off + 3)) =
      memRead b off 4 := by
  symm
  refine memRead_eq_of_byteAt_eq (n := 4) fun i hi => ?_
  interval_cases i <;> simp only [byteAt_bytes4, Nat.add_zero]

/-- A 16-byte buffer is its four groups (R7). -/
theorem bytes16_memRead (b : EntryBuf) :
    bytes16 (memRead b 0 4) (memRead b 4 4) (memRead b 8 4) (memRead b 12 4) = b := by
  refine eq_of_byteAt_eq (n := 16) fun i hi => ?_
  rw [byteAt_bytes16]
  split_ifs
  · rw [byteAt_memRead b (by omega), Nat.zero_add]
  all_goals rw [byteAt_memRead b (by omega), Nat.add_sub_cancel' (by omega)]

/-- The little-endian number of four bytes is the bus that carries them (R24, R27): in each byte's lane
the other three, shifted, are zero. -/
theorem le32_eq_bytes4 (b0 b1 b2 b3 : Byte) : le32 b0 b1 b2 b3 = bytes4 b0 b1 b2 b3 := by
  apply BitVec.eq_of_getLsbD_eq
  intro j hj
  simp only [le32, bytes4, BitVec.getLsbD_or, BitVec.getLsbD_shiftLeft, BitVec.getLsbD_setWidth,
    BitVec.getLsbD_append]
  grind

/-- The little-endian bytes of a number are the bus that carries it (R24, R27). -/
@[simp] theorem bytesLe32_eq (v : BitVec 32) : bytesLe32 v = v := bytes4_byteAt v

/-! ## The sub-fields of a packed CHS value -/

/-- The cylinder is `[b1[7:6], b2]` (R46, R56). -/
theorem cylinderOf_getLsbD (b1 b2 : Byte) {j : Nat} (hj : j < 10) :
    (cylinderOf b1 b2).getLsbD j = if j < 8 then b2.getLsbD j else b1.getLsbD (j - 2) := by
  interval_cases j <;> simp [cylinderOf]

/-- The sector is `b1[5:0]` (R47, R56). -/
theorem sectorOf_getLsbD (b1 : Byte) {j : Nat} (hj : j < 6) :
    (sectorOf b1).getLsbD j = b1.getLsbD j := by
  interval_cases j <;> simp [sectorOf]

/-- Byte 1 of a packed CHS value is `[c[9:8], s[5:0]]` (R48, R57, R61). -/
theorem chsByte1_getLsbD (c : BitVec 16) (s : Byte) {j : Nat} (hj : j < 8) :
    (chsByte1 c s).getLsbD j = if j < 6 then s.getLsbD j else c.getLsbD (j + 2) := by
  interval_cases j <;> simp [chsByte1, cylHighBits, Config.maskSector]

/-- Byte 2 of a packed CHS value is `c[7:0]` (R57). -/
theorem cylLowByte_getLsbD (c : BitVec 16) {j : Nat} (hj : j < 8) :
    (cylLowByte c).getLsbD j = c.getLsbD j := by
  interval_cases j <;> simp [cylLowByte]

/-- Packing the sub-fields taken out of byte 1 gives byte 1 back. -/
theorem chsByte1_of_subFields (b1 b2 : Byte) :
    chsByte1 ((cylinderOf b1 b2).setWidth 16) ((sectorOf b1).setWidth 8) = b1 := by
  apply BitVec.eq_of_getLsbD_eq
  intro j hj
  rw [chsByte1_getLsbD _ _ hj, BitVec.getLsbD_setWidth, BitVec.getLsbD_setWidth,
    decide_eq_true hj, decide_eq_true (show j + 2 < 16 by omega), Bool.true_and, Bool.true_and]
  split
  next h => exact sectorOf_getLsbD b1 h
  next h => rw [cylinderOf_getLsbD b1 b2 (by omega), if_neg (by omega), Nat.add_sub_cancel]

/-- Packing the low bits of the cylinder gives byte 2 back. -/
theorem cylLowByte_of_cylinder (b1 b2 : Byte) :
    cylLowByte ((cylinderOf b1 b2).setWidth 16) = b2 := by
  apply BitVec.eq_of_getLsbD_eq
  intro j hj
  rw [cylLowByte_getLsbD _ hj, BitVec.getLsbD_setWidth, decide_eq_true (show j < 16 by omega),
    Bool.true_and, cylinderOf_getLsbD b1 b2 (by omega), if_pos hj]

/-! ## The document's partition entry -/

/-- The abstract status keeps the byte (R82). -/
@[simp] theorem byteOfStatus_statusOfByte (x : Byte) : byteOfStatus (statusOfByte x) = x := by
  unfold statusOfByte
  split_ifs with h00 h80
  · exact h00.symm
  · exact h80.symm
  · rfl

/-- The byte keeps the abstract status (R82). -/
@[simp] theorem statusOfByte_byteOfStatus (st : PartitionStatus) :
    statusOfByte (byteOfStatus st) = st := by
  cases st with
  | notBootable | bootable => rfl
  | invalid x ne00 ne80 => exact (dif_neg ne00).trans (dif_neg ne80)

/-- `decode`, field by field: the status byte, and the bytes of the other five as they stand (R19,
R89). -/
theorem entryOfBytes_eq (B : EntryBuf) :
    entryOfBytes B =
      ⟨statusOfByte (byteAt B 0), memRead B 1 3, byteAt B 4, memRead B 5 3, memRead B 8 4,
        memRead B 12 4⟩ := by
  simp only [entryOfBytes, decodeEntry, decodeEntryWith, le32_eq_bytes4, ← bytes4_byteAt_eq_memRead]

/-- `encode`, byte by byte: the two CHS values go through their sub-fields unchanged (R19, R91). -/
theorem bytesOfEntry_eq (e : PartitionEntry) :
    bytesOfEntry e =
      bytes16
        (bytes4 (byteOfStatus e.status) (byteAt e.chs_first 0) (byteAt e.chs_first 1)
          (byteAt e.chs_first 2))
        (bytes4 e.partition_type (byteAt e.chs_last 0) (byteAt e.chs_last 1) (byteAt e.chs_last 2))
        e.lba_first e.lba_length := by
  simp only [bytesOfEntry, encodeEntry, unpackChs, chsByte1_of_subFields, cylLowByte_of_cylinder,
    bytesLe32_eq]

/-- Decode after encode: each field is read from the bytes where it was placed. -/
theorem entryOfBytes_bytesOfEntry (e : PartitionEntry) : entryOfBytes (bytesOfEntry e) = e := by
  rw [bytesOfEntry_eq, entryOfBytes_eq]
  obtain ⟨status, chs_first, ptype, chs_last, lba_first, lba_length⟩ := e
  simp only [PartitionEntry.mk.injEq]
  refine ⟨?status, ?chs_first, ?ptype, ?chs_last, ?lba_first, ?lba_length⟩
  case status | ptype => simp [byteAt_bytes16]
  case chs_first | chs_last | lba_first | lba_length =>
    refine memRead_eq_of_byteAt_eq fun i hi => ?_
    interval_cases i <;> simp [byteAt_bytes16]

/-- Encode after decode: the four groups of the buffer come back. -/
theorem bytesOfEntry_entryOfBytes (B : EntryBuf) : bytesOfEntry (entryOfBytes B) = B := by
  calc bytesOfEntry (entryOfBytes B)
      = bytes16 (memRead B 0 4) (memRead B 4 4) (memRead B 8 4) (memRead B 12 4) := by
        simp only [bytesOfEntry_eq, entryOfBytes_eq, byteOfStatus_statusOfByte,
          byteAt_memRead B (show 0 < 3 by decide), byteAt_memRead B (show 1 < 3 by decide),
          byteAt_memRead B (show 2 < 3 by decide)]
        rw [← bytes4_byteAt_eq_memRead B 0, ← bytes4_byteAt_eq_memRead B 4]
    _ = B := bytes16_memRead B

/-! ## The obligations -/

/-- Settles O42: the fields of an entry lie in disjoint bytes that together are all sixteen. -/
theorem partitionEntryAndBytesDetermineEachOther :
    Obligations.PartitionEntryAndBytesDetermineEachOther := by
  refine ⟨entryOfBytes_bytesOfEntry, bytesOfEntry_entryOfBytes, ?_⟩
  rw [responseTo_peEmpty, bytesOfEntry_eq]
  decide

/-- Settles O52: performing an instruction answers with its response at reset, in every state. -/
theorem responseIsAFunctionOfTheRequest : Obligations.ResponseIsAFunctionOfTheRequest := by
  constructor
  · intro s s' t hnext hstep
    rw [step, hnext] at hstep
    obtain ⟨hwf, rfl⟩ := exec_eq_next_iff.mp hstep
    exact ⟨_, exec_eq_answered hwf s'.takeLine, rfl, rfl⟩
  · intro i s hwf
    exact ⟨_, exec_eq_answered hwf s, rfl, rfl, rfl, rfl⟩

/-- Settles O54. -/
theorem outputPortsHaveTheirWidths : Obligations.OutputPortsHaveTheirWidths :=
  Outputs.read_lt

end Sys2Proof.Machine

/-! PROOFS of the memory family (`20_memory.md`): a held request keeps its response (R32, R136). The
facts about requests on the wires come first, the obligation last. -/

namespace Sys2Proof.Machine

/-! ## The request a step performs -/

/-- A line decodes to an operation or a reserved code, never to a pseudo-operation (R54). -/
theorem decode_isCore (w : ReqWord) : (decode w).isCore = true := by
  unfold decode
  split <;> rfl

/-- The wires select an operation or a reserved code, never a pseudo-operation (R54). -/
theorem selected_isCore (p : Inputs) : (selected p).isCore = true := by
  unfold selected
  split <;> rfl

/-- What a step performs is never a pseudo-operation, whether it is a new line or the held request. -/
theorem nextInstr_isCore (s : State) : (nextInstr s).isCore = true := by
  cases hscript : s.script with
  | nil => rw [nextInstr_of_nil hscript]; exact selected_isCore _
  | cons w ws => rw [nextInstr_of_cons hscript]; exact decode_isCore w

/-- All that a step can do. -/
theorem step_eq_next_iff {s t : State} :
    step s = .next t ↔ (nextInstr s).wellFormed = true ∧
      t = s.takeLine.answered (nextInstr s) (responseTo (nextInstr s)) :=
  exec_eq_next_iff

/-! ## A request presented again -/

/-- A request already on the wires, presented again, changes no wire (R136). -/
@[simp] theorem drive_drive (i : Instr) (p : Inputs) : drive i (drive i p) = drive i p := by
  cases i <;> rfl

/-- A request already answered, answered the same way again, changes nothing. -/
@[simp] theorem State.answered_answered (s : State) (i : Instr) (o : Outputs) :
    (s.answered i o).answered i o = s.answered i o := by
  simp [State.answered]

/-- Without a line to come there is none to take. -/
theorem State.takeLine_of_nil {s : State} (h : s.script = []) : s.takeLine = s := by
  obtain ⟨script, inputs, outputs, results⟩ := s
  cases h
  rfl

/-- With no line to come, an operation just answered is the request held on the wires. -/
theorem nextInstr_answered {s : State} {i : Instr} (o : Outputs) (hscript : s.script = [])
    (hcore : i.isCore = true) : nextInstr (s.answered i o) = i := by
  calc nextInstr (s.answered i o)
      = selected (drive i s.inputs) := nextInstr_of_nil hscript
    _ = i.expand := selected_drive i s.inputs
    _ = i := expand_of_isCore hcore

/-! ## The obligation -/

/-- Settles O58: the step leaves its own request on the wires, and answering that once more changes
nothing. -/
theorem heldRequestKeepsItsResponse : Obligations.HeldRequestKeepsItsResponse := by
  intro s t hlen hstep
  obtain ⟨hwf, rfl⟩ := step_eq_next_iff.mp hstep
  have hscript : s.takeLine.script = [] := by
    rw [State.takeLine_script, ← List.length_eq_zero_iff, List.length_tail]
    omega
  rw [step_eq_next_iff, nextInstr_answered _ hscript (nextInstr_isCore s),
    State.takeLine_of_nil ((State.answered_script _ _ _).trans hscript), State.answered_answered]
  exact ⟨hwf, rfl⟩

end Sys2Proof.Machine

/-! PROOFS of the encoding family (`30_encoding.md`): a line and what it decodes to determine each
other (R49, R54), pseudo-operations against their expansions (R53), ports outside the selected
operation (R50), reserved codes (R51), and the response beside its request after a step (R50, R136).
The facts about lines and requests come first, the obligations last. -/

namespace Sys2Proof

open Sys2Proof.Machine

/-! ## Bits and fields of a line -/

@[simp] theorem getBit_zero (off : Nat) : getBit 0 off = false := Nat.zero_testBit off

theorem getBit_putBit_other (w : ReqWord) (off off' : Nat) (b : Bool)
    (h : off < off' ∨ off' < off) : getBit (putBit w off' b) off = getBit w off := by
  rw [putBit_eq]
  exact getBit_putField_other w off off' _ h

theorem getField_putBit_other (w : ReqWord) (off n off' : Nat) (b : Bool)
    (h : off + n ≤ off' ∨ off' < off) : getField (putBit w off' b) off n = getField w off n := by
  rw [putBit_eq]
  exact getField_putField_other w off n off' _ h

/-- The four lowest bits of a line are its operation code. -/
theorem getBit_eq_opOf_getLsbD (w : ReqWord) {k : Nat} (hk : k < 4) :
    getBit w k = (opOf w).getLsbD k := by
  rw [opOf, getField_getLsbD, decide_eq_true hk, Bool.true_and, Nat.zero_add, getBit]

theorem opOf_eq_bits (w : ReqWord) :
    opOf w = BitVec.ofBool (getBit w 3) ++ BitVec.ofBool (getBit w 2) ++
      BitVec.ofBool (getBit w 1) ++ BitVec.ofBool (getBit w 0) := by
  rw [getBit_eq_opOf_getLsbD w (k := 3) (by decide), getBit_eq_opOf_getLsbD w (k := 2) (by decide),
    getBit_eq_opOf_getLsbD w (k := 1) (by decide), getBit_eq_opOf_getLsbD w (k := 0) (by decide)]
  generalize opOf w = c
  revert c
  decide

/-! ## Reading back the entries placed in a line -/

theorem getField_putEntry_other (w : ReqWord) (off n off' : Nat) (e : EntryIn)
    (h : off + n ≤ off' ∨ off' + 144 ≤ off) :
    getField (putEntry w off' e) off n = getField w off n := by
  simp (disch := omega) only [putEntry, getField_putField_other]

theorem getEntry_putEntry_other (w : ReqWord) (off off' : Nat) (e : EntryIn)
    (h : off + 144 ≤ off' ∨ off' + 144 ≤ off) :
    getEntry (putEntry w off' e) off = getEntry w off := by
  simp (disch := omega) only [getEntry, getField_putEntry_other]

/-- An entry reads back when the line had zeros from its place on. -/
theorem getEntry_putEntry_same (w : ReqWord) (off : Nat) (e : EntryIn)
    (hz : ∀ k n, getField w (off + k) n = 0#n) : getEntry (putEntry w off e) off = e := by
  have h0 (n : Nat) : getField w off n = 0#n := hz 0 n
  simp [getEntry, putEntry, getField_putField_same, getField_putField_other, hz, h0]

/-- A placed entry leaves the zeros above it. -/
theorem getField_putEntry_above (w : ReqWord) (off : Nat) (e : EntryIn)
    (hz : ∀ k n, getField w (off + k) n = 0#n) (k n : Nat) :
    getField (putEntry w off e) (off + 144 + k) n = 0#n := by
  rw [getField_putEntry_other _ _ _ _ _ (by omega), Nat.add_assoc, hz]

theorem getField_putEntries_below (w : ReqWord) (off n off' : Nat) (v : Slots EntryIn)
    (h : off + n ≤ off') : getField (putEntries w off' v) off n = getField w off n := by
  simp (disch := omega) only [putEntries, getField_putEntry_other]

theorem getBit_putEntries_below (w : ReqWord) (off off' : Nat) (v : Slots EntryIn)
    (h : off < off') : getBit (putEntries w off' v) off = getBit w off := by
  simp (disch := omega) only [putEntries, putEntry, getBit_putField_other]

/-- The four slots read back when the line had zeros from their place on. -/
theorem getEntries_putEntries_same (w : ReqWord) (off : Nat) (v : Slots EntryIn)
    (hz : ∀ k n, getField w (off + k) n = 0#n) : getEntries (putEntries w off v) off = v := by
  have hz1 := getField_putEntry_above w off v.s0 hz
  have hz2 := getField_putEntry_above _ (off + 144) v.s1 hz1
  have hz3 := getField_putEntry_above _ (off + 288) v.s2 hz2
  simp (disch := omega) only [getEntries, putEntries, getEntry_putEntry_other]
  rw [getEntry_putEntry_same _ _ _ hz, getEntry_putEntry_same _ _ _ hz1,
    getEntry_putEntry_same _ _ _ hz2, getEntry_putEntry_same _ _ _ hz3]

/-! ## Placing again what was read

Placing a field at its own offset extends the low bits of a line by that field. -/

theorem putField_mod_getField (w : ReqWord) (off n : Nat) :
    putField (w % 2 ^ off) off (getField w off n) = w % 2 ^ (off + n) := by
  apply Nat.eq_of_testBit_eq
  intro j
  rw [putField_testBit, getField_getLsbD, Nat.testBit_mod_two_pow, Nat.testBit_mod_two_pow]
  by_cases hj : off ≤ j
  · have hlt : j - off < n ↔ j < off + n := by omega
    simp [hj, hlt]
  · have hlt : j < off + n := by omega
    simp [hj, hlt, Nat.lt_of_not_le hj]

theorem putBit_mod_getBit (w : ReqWord) (off : Nat) :
    putBit (w % 2 ^ off) off (getBit w off) = w % 2 ^ (off + 1) := by
  have hbit : BitVec.ofBool (getBit w off) = getField w off 1 := by
    apply BitVec.eq_of_getLsbD_eq
    intro j hj
    obtain rfl : j = 0 := Nat.lt_one_iff.mp hj
    rw [getField_getLsbD, getBit]
    simp
  rw [putBit_eq, hbit, putField_mod_getField]

theorem putEntry_mod_getEntry (w : ReqWord) (off : Nat) :
    putEntry (w % 2 ^ off) off (getEntry w off) = w % 2 ^ (off + 144) := by
  have hput (k n : Nat) : putField (w % 2 ^ (off + k)) (off + k) (getField w (off + k) n) =
      w % 2 ^ (off + (k + n)) := by
    rw [putField_mod_getField, Nat.add_assoc]
  simp only [putEntry, getEntry, putField_mod_getField, hput, Nat.reduceAdd]

theorem putEntries_mod_getEntries (w : ReqWord) (off : Nat) :
    putEntries (w % 2 ^ off) off (getEntries w off) = w % 2 ^ (off + 576) := by
  simp only [putEntries, getEntries, putEntry_mod_getEntry, Nat.add_assoc, Nat.reduceAdd]

theorem putField_opOf (w : ReqWord) : putField 0 0 (opOf w) = w % 2 ^ 4 := by
  have h := putField_mod_getField w 0 4
  rwa [Nat.pow_zero, Nat.mod_one] at h

/-! ## Operation codes and expansions -/

/-- The operation code of a line names its row (R49). -/
@[simp] theorem opcode_decode (w : ReqWord) : (decode w).opcode = opOf w := by
  rw [opOf_eq_bits]
  unfold decode
  split <;> simp only [*] <;> rfl

/-- A line begins with its instruction's operation code (R54). -/
@[simp] theorem opOf_encode (i : Instr) : opOf (encode i) = i.opcode := by
  cases i <;>
    simp [opOf, encode, chsPackWord, mbrEncodeWord, Instr.opcode, getField_putField_same,
      getField_putField_other, getField_putBit_other, getField_putEntry_other,
      getField_putEntries_below]

@[simp] theorem expand_isCore (i : Instr) : i.expand.isCore = true := by
  cases i <;> rfl

@[simp] theorem wellFormed_expand (i : Instr) : i.expand.wellFormed = i.wellFormed := by
  cases i <;> rfl

@[simp] theorem encode_expand (i : Instr) : encode i.expand = encode i := by
  cases i <;> rfl

/-- A code names an operation exactly up to 0xC (R49, R51). -/
theorem wellFormed_iff_opcode_le (i : Instr) : i.wellFormed = true ↔ i.opcode.toNat ≤ 0xC := by
  cases i <;> simp [Instr.wellFormed, Instr.opcode]

/-- A code has a unit exactly up to 0xC (R49, R51). -/
theorem unitOf_isSome_iff (op : BitVec 4) : (unitOf op).isSome = true ↔ op.toNat ≤ 0xC := by
  revert op
  decide

/-! ## The two round trips -/

/-- The operation code in the low bits selects the row that wrote the line, whose fields then read
back one by one. -/
theorem decode_encode_of_isCore {i : Instr} (h : i.isCore = true) : decode (encode i) = i := by
  have hbit (k : Nat) (hk : k < 4) : getBit (encode i) k = i.opcode.getLsbD k := by
    rw [getBit_eq_opOf_getLsbD _ hk, opOf_encode]
  rw [decode, hbit 3 (by decide), hbit 2 (by decide), hbit 1 (by decide), hbit 0 (by decide)]
  cases i with
  | getCyl | getHead | getSec | chsEncode | chsSetcyl | chsSethead | chsSetsec | mbrBuild
  | mbrUpdate => cases h
  | peEncode e => simp [Instr.opcode, encode, getEntry_putEntry_same, getField_putField_other]
  | mbrEncode keep boot v =>
    have hz (k n : Nat) :
        getField (putField (putBit (putField 0 0 0xC#4) 4 keep) 5 boot) (3573 + k) n = 0#n := by
      simp (disch := omega) only [getField_putField_other, getField_putBit_other, getField_zero]
    simp [Instr.opcode, encode, mbrEncodeWord, getEntries_putEntries_same _ _ _ hz,
      getField_putField_same, getField_putField_other, getBit_putBit_same, getField_putBit_other,
      getBit_putField_other, getField_putEntries_below, getBit_putEntries_below]
  | _ =>
    simp [Instr.opcode, encode, chsPackWord, getField_putField_same, getField_putField_other,
      getBit_putBit_same, getBit_putBit_other, getField_putBit_other, getBit_putField_other]

/-- A line reads as the expansion of the instruction that wrote it (R53, R54). -/
theorem decode_encode (i : Instr) : decode (encode i) = i.expand := by
  rw [← encode_expand, decode_encode_of_isCore (expand_isCore i)]

/-- Each row places its fields in ascending order with no gap, so that the low bits of the line grow
from the operation code up to the last value (R54). -/
theorem encode_decode (w : ReqWord) : encode (decode w) = w % 2 ^ lineBits (opOf w) := by
  have hop := putField_opOf w
  rw [← opcode_decode] at hop ⊢
  revert hop
  unfold decode
  split
  all_goals
    intro hop
    simp only [Instr.opcode, BitVec.ofNat_eq_ofNat] at hop
    simp [encode, chsPackWord, mbrEncodeWord, lineBits, Instr.opcode, hop, putField_mod_getField,
      putBit_mod_getBit, putEntry_mod_getEntry, putEntries_mod_getEntries, -Nat.reducePow]

end Sys2Proof

namespace Sys2Proof.Machine

/-! ## Requests and their responses -/

/-- A request that names no operation is refused by its code (R51). -/
theorem exec_of_not_wellFormed {i : Instr} (h : i.wellFormed = false) (s : State) :
    exec i s = .refused (.reservedOpcode i.opcode) := by
  cases i with
  | reservedD | reservedE | reservedF => rfl
  | _ => cases h

@[simp] theorem step_withLine (s : State) (w : ReqWord) :
    step (s.withLine w) = exec (decode w) s := rfl

@[simp] theorem responseTo_expand (i : Instr) : responseTo i.expand = responseTo i := by
  cases i <;> rfl

/-- A pseudo-operation ignores some outputs of its operation and adds none (R53). -/
theorem resultPorts_subset_expand (i : Instr) : resultPorts i ⊆ resultPorts i.expand := by
  cases i <;> simp [resultPorts, Instr.expand]

/-- The response to an operation stands beside its request (R50). -/
theorem State.coherent_answered {i : Instr} (hwf : i.wellFormed = true) (hcore : i.isCore = true)
    (s : State) : (s.answered i (responseTo i)).coherent := by
  unfold State.coherent
  rw [State.answered_inputs, selected_drive, expand_of_isCore hcore]
  exact ⟨_, exec_eq_answered hwf _, rfl⟩

/-! ## Output ports outside the operation -/

theorem responseTo_lbaUnpack (b : LbaBuf) (n : BitVec 10) :
    responseTo (.lbaUnpack b n) = lbaUnpackOutputs b n := rfl

theorem responseTo_mbrDecode (b : SectorBuf) :
    responseTo (.mbrDecode b) = mbrDecodeOutputs b := rfl

theorem EntryPort.mem_all (p : EntryPort) : p ∈ EntryPort.all := by
  cases p <;> decide

theorem Outputs.read_zero (p : OutPort) : Outputs.zero.read p = 0 := by
  cases p with
  | entry q => cases q <;> rfl
  | slot_pe_b k => fin_cases k <;> rfl
  | slot k q => fin_cases k <;> cases q <;> rfl
  | boot_out_b | mbr_out_b =>
    simp only [Outputs.read, Outputs.zero, BitVec.ofNat_eq_ofNat, BitVec.toNat_zero]
  | _ => rfl

/-- A response differs from the all-zero outputs only on the ports of its operation (R50). -/
theorem responseTo_read_eq_zero (i : Instr) {p : OutPort} (h : p ∉ resultPorts i.expand) :
    (responseTo i).read p = 0 := by
  have hz := Outputs.read_zero p
  cases i with
  | chsEmpty | chsPack | chsEncode | chsSetcyl | chsSethead | chsSetsec =>
    cases p with
    | chs_out_b | err => simp [Instr.expand, resultPorts] at h
    | _ => exact hz
  | chsUnpack | getCyl | getHead | getSec =>
    cases p with
    | cyl | head | sec | err => simp [Instr.expand, resultPorts] at h
    | _ => exact hz
  | lbaEmpty =>
    cases p with
    | lba_out_b | packer_value | err => simp [Instr.expand, resultPorts] at h
    | _ => exact hz
  | lbaUnpack =>
    cases p with
    | value | consumed | remain | trunc | err => simp [Instr.expand, resultPorts] at h
    | _ =>
      rw [responseTo_lbaUnpack, lbaUnpackOutputs]
      split <;> exact hz
  | lbaPack =>
    cases p with
    | lba_out_b | err => simp [Instr.expand, resultPorts] at h
    | _ => exact hz
  | stClassify =>
    cases p with
    | st_class | err => simp [Instr.expand, resultPorts] at h
    | _ => exact hz
  | tyClassify =>
    cases p with
    | type_known | err => simp [Instr.expand, resultPorts] at h
    | _ => exact hz
  | peEmpty | peEncode =>
    cases p with
    | pe_out_b | err => simp [Instr.expand, resultPorts] at h
    | _ => exact hz
  | peDecode =>
    cases p with
    | entry | err => simp [Instr.expand, resultPorts, EntryPort.mem_all] at h
    | _ => exact hz
  | mbrDecode =>
    cases p with
    | sig_ok | err | boot_out_b => simp [Instr.expand, resultPorts] at h
    | slot_pe_b k | slot k =>
      fin_cases k <;> simp [Instr.expand, resultPorts, slotPorts, EntryPort.mem_all] at h
    | _ =>
      rw [responseTo_mbrDecode, mbrDecodeOutputs]
      split <;> exact hz
  | mbrEncode | mbrBuild | mbrUpdate =>
    cases p with
    | mbr_out_b | err => simp [Instr.expand, resultPorts] at h
    | _ => exact hz
  | reservedD | reservedE | reservedF => exact hz

/-! ## The obligations -/

/-- Settles O1: a line reads as the expansion of its instruction, and a core instruction is its own
expansion. -/
theorem decodeEncode : Obligations.DecodeEncode :=
  fun i _ => ⟨decode_encode i, decode_encode_of_isCore⟩

/-- Settles O2. -/
theorem encodeDecode : Obligations.EncodeDecode :=
  encode_decode

/-- Settles O56: what a step performs is a core instruction, so that the wires it drives select that
same instruction again. -/
theorem stepKeepsResponseBesideRequest : Obligations.StepKeepsResponseBesideRequest := by
  intro s t hstep
  obtain ⟨hwf, rfl⟩ := step_eq_next_iff.mp hstep
  exact State.coherent_answered hwf (nextInstr_isCore s) s.takeLine

/-- Settles O3: the row a line decodes to has the line's code, and both thresholds are facts about
codes. -/
theorem opSelectsTheOperation : Obligations.OpSelectsTheOperation := by
  intro w
  refine ⟨opcode_decode w, decode_isCore w, ?_, unitOf_isSome_iff (opOf w)⟩
  rw [wellFormed_iff_opcode_le, opcode_decode]

/-- Settles O7: an instruction and its expansion are both answered, with the same wires driven and
the same response. -/
theorem pseudoOperationIsItsExpansion : Obligations.PseudoOperationIsItsExpansion := by
  intro i s hwf
  have hexpand := exec_eq_answered ((wellFormed_expand i).trans hwf) s
  rw [step_withLine, decode_encode]
  exact ⟨⟨_, _, exec_eq_answered hwf s, hexpand, (drive_expand i s.inputs).symm,
    (responseTo_expand i).symm, rfl, fun _ hp => resultPorts_subset_expand i hp⟩, rfl⟩

/-- Settles O53: the response is zero outside the operation's ports, and the wires driven select the
expansion whatever the other wires carry. -/
theorem portsOutsideTheOperation : Obligations.PortsOutsideTheOperation := by
  constructor
  · intro i s t p hexec hp
    obtain ⟨-, rfl⟩ := exec_eq_next_iff.mp hexec
    exact responseTo_read_eq_zero i hp
  · intro i p q
    rw [selected_drive, selected_drive]

/-- Settles O4: eight fixed words, evaluated. -/
theorem linesReadFromTheSpec : Obligations.LinesReadFromTheSpec := by
  unfold Obligations.LinesReadFromTheSpec
  decide

/-- Settles O5. -/
theorem stepRunsTheDecodedLine : Obligations.StepRunsTheDecodedLine := by
  constructor
  · intro s w ws hscript
    rw [step, nextInstr_of_cons hscript, State.takeLine, hscript, List.tail_cons]
  · intro s hscript
    rw [step, nextInstr_of_nil hscript, State.takeLine_of_nil hscript]

/-- Settles O6: a line whose code is above 0xC decodes to an instruction that names no operation. -/
theorem reservedCodesAreRefused : Obligations.ReservedCodesAreRefused := by
  refine ⟨fun s => ⟨rfl, rfl, rfl⟩, ?_⟩
  intro s w hop
  have hwf : (decode w).wellFormed = false := by
    rw [← Bool.not_eq_true, wellFormed_iff_opcode_le, opcode_decode]
    omega
  rw [step_withLine, exec_of_not_wellFormed hwf, opcode_decode]

end Sys2Proof.Machine

/-! PROOFS of the CHS family (`40_chs.md`): what the accessors, the packer and its settings give.
The masks and shifts are written as bit fields first; then a packed value is its three sub-fields (R40),
and what unpacking reads out of a packed value follows. The obligations come last. -/

namespace Sys2Proof.Machine

/-! ## Masks and shifts as bit fields -/

/-- The cylinder-high mask keeps bits 7:6 in place and clears the rest (R57). -/
theorem and_maskCylHi (b : Byte) : b &&& Config.maskCylHi = b.extractLsb' 6 2 ++ 0#6 := by
  apply BitVec.eq_of_getLsbD_eq
  intro j hj
  rw [BitVec.getLsbD_append]
  interval_cases j <;> simp [Config.maskCylHi]

/-- The sector mask keeps bits 5:0 in place and clears the rest (R47, R57). -/
theorem and_maskSector (b : Byte) : b &&& Config.maskSector = 0#2 ++ b.extractLsb' 0 6 := by
  apply BitVec.eq_of_getLsbD_eq
  intro j hj
  rw [BitVec.getLsbD_append]
  interval_cases j <;> simp [Config.maskSector]

/-- Bits 9:8 of a cylinder stand where the cylinder-high mask selects (R57). -/
theorem cylHighBits_eq (c : BitVec 16) : cylHighBits c = c.extractLsb' 8 2 ++ 0#6 := by
  apply BitVec.eq_of_getLsbD_eq
  intro j hj
  rw [BitVec.getLsbD_append]
  interval_cases j <;> simp [cylHighBits]

/-- Bits 7:0 of a cylinder (R57). -/
theorem cylLowByte_eq (c : BitVec 16) : cylLowByte c = c.extractLsb' 0 8 := by
  apply BitVec.eq_of_getLsbD_eq
  intro j hj
  rw [cylLowByte_getLsbD c hj, BitVec.getLsbD_extractLsb', decide_eq_true hj, Bool.true_and,
    Nat.zero_add]

/-- Byte 1 joins its two bit fields by an or, each with zeros where the other stands (R57). -/
theorem append_zero_or_zero_append (hi : BitVec 2) (lo : BitVec 6) :
    (hi ++ 0#6) ||| (0#2 ++ lo) = hi ++ lo := by
  rw [BitVec.or_append, BitVec.or_zero, BitVec.zero_or]

/-- The cylinder is `[b1[7:6], b2]` (R46, R56). -/
theorem cylinderOf_eq (b1 b2 : Byte) : cylinderOf b1 b2 = b1.extractLsb' 6 2 ++ b2 := by
  apply BitVec.eq_of_getLsbD_eq
  intro j hj
  rw [cylinderOf_getLsbD b1 b2 hj, BitVec.getLsbD_append]
  split
  next => rfl
  next h =>
    rw [BitVec.getLsbD_extractLsb', decide_eq_true (by omega), Bool.true_and,
      show 6 + (j - 8) = j - 2 by omega]

/-- The sector is `b1[5:0]` (R47, R56). -/
theorem sectorOf_eq (b1 : Byte) : sectorOf b1 = b1.extractLsb' 0 6 := by
  apply BitVec.eq_of_getLsbD_eq
  intro j hj
  rw [sectorOf_getLsbD b1 hj, BitVec.getLsbD_extractLsb', decide_eq_true hj, Bool.true_and,
    Nat.zero_add]

/-- Bits of a byte are bits of the bus that carries it (R24). -/
theorem extractLsb'_byteAt {w : Nat} (b : BitVec w) (i : Nat) {off len : Nat} (h : off + len ≤ 8) :
    (byteAt b i).extractLsb' off len = b.extractLsb' (8 * i + off) len := by
  apply BitVec.eq_of_getLsbD_eq
  intro j hj
  rw [BitVec.getLsbD_extractLsb', BitVec.getLsbD_extractLsb', byteAt_getLsbD,
    decide_eq_true (show off + j < 8 by omega), Bool.true_and, Nat.add_assoc]

/-- A number is the value of its low `n` bits exactly when it is below `2 ^ n`. -/
theorem toNat_extractLsb'_zero_eq_iff {w : Nat} (x : BitVec w) (n : Nat) :
    (x.extractLsb' 0 n).toNat = x.toNat ↔ x.toNat < 2 ^ n := by
  rw [BitVec.extractLsb'_toNat, Nat.shiftRight_zero, Nat.mod_eq_iff_lt (by positivity)]

/-! ## A packed value is its three sub-fields -/

/-- A buffer is the three bytes it holds (R7). -/
theorem bytes3_byteAt (b : ChsBuf) : bytes3 (byteAt b 0) (byteAt b 1) (byteAt b 2) = b := by
  refine eq_of_byteAt_eq (n := 3) fun i hi => ?_
  interval_cases i <;> simp only [byteAt_bytes3]

/-- `CHS_UNPACK` on the bus bits of R40 (R56). -/
theorem unpackChs_eq (b : ChsBuf) :
    unpackChs b =
      ⟨b.extractLsb' 14 2 ++ b.extractLsb' 16 8, b.extractLsb' 0 8, b.extractLsb' 8 6⟩ := by
  rw [unpackChs, cylinderOf_eq, sectorOf_eq, extractLsb'_byteAt b 1 (by decide),
    extractLsb'_byteAt b 1 (by decide)]
  rfl

/-- `CHS_PACK` byte by byte: each sub-field comes from the input or from the base as its enable says
(R57). -/
theorem packChs_eq (base : ChsBuf) (wc wh ws : Bool) (c : BitVec 16) (h n : Byte) :
    packChs ⟨base, wc, wh, ws, c, h, n⟩ =
      bytes3 (if wh then h else base.extractLsb' 0 8)
        ((if wc then c.extractLsb' 8 2 else base.extractLsb' 14 2) ++
          (if ws then n.extractLsb' 0 6 else base.extractLsb' 8 6))
        (if wc then c.extractLsb' 0 8 else base.extractLsb' 16 8) := by
  have hbyte1 : (if wc then cylHighBits c else byteAt base 1 &&& Config.maskCylHi) |||
        (if ws then n &&& Config.maskSector else byteAt base 1 &&& Config.maskSector) =
      (if wc then c.extractLsb' 8 2 else base.extractLsb' 14 2) ++
        (if ws then n.extractLsb' 0 6 else base.extractLsb' 8 6) := by
    rw [cylHighBits_eq, and_maskCylHi, and_maskSector, and_maskSector,
      extractLsb'_byteAt base 1 (by decide), extractLsb'_byteAt base 1 (by decide),
      ← apply_ite (· ++ 0#6), ← apply_ite (0#2 ++ ·), append_zero_or_zero_append]
  rw [packChs, hbyte1, cylLowByte_eq]
  rfl

/-- Unpacking reads the sub-fields that stand in the three bytes. -/
theorem unpackChs_bytes3 (head : Byte) (hi : BitVec 2) (sec : BitVec 6) (lo : Byte) :
    unpackChs (bytes3 head (hi ++ sec) lo) = ⟨hi ++ lo, head, sec⟩ := by
  obtain ⟨h0, h1, h2⟩ := byteAt_bytes3 head (hi ++ sec) lo
  rw [unpackChs, h0, h1, h2, cylinderOf_eq, sectorOf_eq, BitVec.extractLsb'_append_eq_left,
    BitVec.extractLsb'_append_eq_right]

/-- Packing the sub-fields of a value over an empty base gives all 24 bits back (R67). -/
theorem packChs_unpackChs (b : ChsBuf) :
    packChs ⟨0, true, true, true, (unpackChs b).cyl.setWidth 16, (unpackChs b).head,
      (unpackChs b).sec.setWidth 8⟩ = b := by
  calc _ = bytes3 (byteAt b 0)
        (chsByte1 ((cylinderOf (byteAt b 1) (byteAt b 2)).setWidth 16)
          ((sectorOf (byteAt b 1)).setWidth 8))
        (cylLowByte ((cylinderOf (byteAt b 1) (byteAt b 2)).setWidth 16)) := rfl
    _ = b := by rw [chsByte1_of_subFields, cylLowByte_of_cylinder, bytes3_byteAt]

/-- The three sub-fields determine a packed value (R40). -/
theorem unpackChs_injective {a b : ChsBuf} (h : unpackChs a = unpackChs b) : a = b := by
  rw [← packChs_unpackChs a, h, packChs_unpackChs b]

/-- What unpacking reads out of a packed value: each sub-field is the input's or the base's as its
enable says, and no other enable or input matters (R65, R66). -/
theorem unpackChs_packChs (base : ChsBuf) (wc wh ws : Bool) (c : BitVec 16) (h n : Byte) :
    unpackChs (packChs ⟨base, wc, wh, ws, c, h, n⟩) =
      { cyl := if wc then c.extractLsb' 0 10 else (unpackChs base).cyl
        head := if wh then h else (unpackChs base).head
        sec := if ws then n.extractLsb' 0 6 else (unpackChs base).sec } := by
  have hcyl : c.extractLsb' 8 2 ++ c.extractLsb' 0 8 = c.extractLsb' 0 10 :=
    BitVec.extractLsb'_append_extractLsb'_eq_extractLsb' rfl
  rw [packChs_eq, unpackChs_bytes3, unpackChs_eq]
  cases wc <;> simp [hcyl]

/-- Which sub-field holds each bit of a packed value (R40). -/
theorem bytes3_getLsbD (head : Byte) (hi : BitVec 2) (sec : BitVec 6) (lo : Byte) (j : Nat) :
    (bytes3 head (hi ++ sec) lo).getLsbD j =
      if j < 8 then head.getLsbD j
      else if j < 16 then if j < 14 then sec.getLsbD (j - 8) else hi.getLsbD (j - 14)
      else lo.getLsbD (j - 16) := by
  have hbyte1 : j - 8 < 2 + 6 ↔ j < 16 := by omega
  have hsec : j - 8 < 6 ↔ j < 14 := by omega
  rw [bytes3, BitVec.getLsbD_append, BitVec.getLsbD_append, BitVec.getLsbD_append]
  simp only [hbyte1, hsec, Nat.sub_sub, Nat.reduceAdd]

/-- Bits of a slice are bits of the whole. -/
theorem getLsbD_extractLsb'_sub {w : Nat} (b : BitVec w) {off len j : Nat} (hoff : off ≤ j)
    (hlen : j < off + len) : (b.extractLsb' off len).getLsbD (j - off) = b.getLsbD j := by
  rw [BitVec.getLsbD_extractLsb', decide_eq_true (by omega), Bool.true_and,
    Nat.add_sub_cancel' hoff]

/-- A bit whose owner is not enabled is the base's (R65). -/
theorem packChs_getLsbD_of_not_enabled {base : ChsBuf} {wc wh ws : Bool} {c : BitVec 16}
    {h n : Byte} {j : Nat} (hj : j < 24)
    (howner : (if j < 8 then wh else if j < 14 then ws else wc) = false) :
    (packChs ⟨base, wc, wh, ws, c, h, n⟩).getLsbD j = base.getLsbD j := by
  rw [packChs_eq, bytes3_getLsbD]
  split_ifs at howner with h8 h14 <;> subst howner
  · rw [if_pos h8]
    exact getLsbD_extractLsb'_sub base (Nat.zero_le j) (by omega)
  · rw [if_neg h8, if_pos (by omega), if_pos h14]
    exact getLsbD_extractLsb'_sub base (by omega) (by omega)
  · by_cases h16 : j < 16
    · rw [if_neg h8, if_pos h16, if_neg h14]
      exact getLsbD_extractLsb'_sub base (by omega) (by omega)
    · rw [if_neg h8, if_neg h16]
      exact getLsbD_extractLsb'_sub base (by omega) (by omega)

/-! ## The responses -/

@[simp] theorem responseTo_chsUnpack (b : ChsBuf) :
    responseTo (.chsUnpack b) = chsUnpackOutputs b := rfl

@[simp] theorem responseTo_getCyl (b : ChsBuf) : responseTo (.getCyl b) = chsUnpackOutputs b := rfl

@[simp] theorem responseTo_getHead (b : ChsBuf) : responseTo (.getHead b) = chsUnpackOutputs b := rfl

@[simp] theorem responseTo_getSec (b : ChsBuf) : responseTo (.getSec b) = chsUnpackOutputs b := rfl

@[simp] theorem responseTo_chsPack (base : ChsBuf) (wc wh ws : Bool) (c : BitVec 16) (h n : Byte) :
    responseTo (.chsPack base wc wh ws c h n) = chsPackOutputs ⟨base, wc, wh, ws, c, h, n⟩ := rfl

@[simp] theorem responseTo_chsEncode (c : BitVec 16) (h n : Byte) :
    responseTo (.chsEncode c h n) = chsPackOutputs ⟨0, true, true, true, c, h, n⟩ := rfl

@[simp] theorem responseTo_chsSetcyl (b : ChsBuf) (c : BitVec 16) :
    responseTo (.chsSetcyl b c) = chsPackOutputs ⟨b, true, false, false, c, 0, 0⟩ := rfl

@[simp] theorem responseTo_chsSethead (b : ChsBuf) (h : Byte) :
    responseTo (.chsSethead b h) = chsPackOutputs ⟨b, false, true, false, 0, h, 0⟩ := rfl

@[simp] theorem responseTo_chsSetsec (b : ChsBuf) (n : Byte) :
    responseTo (.chsSetsec b n) = chsPackOutputs ⟨b, false, false, true, 0, 0, n⟩ := rfl

@[simp] theorem chsUnpackOutputs_chsUnpacker (b : ChsBuf) :
    (chsUnpackOutputs b).chsUnpacker = unpackChs b := rfl

@[simp] theorem chsPackOutputs_chs_out_b (p : ChsPackerIn) :
    (chsPackOutputs p).chsPacker.chs_out_b = packChs p := rfl

/-! ## The obligations -/

/-- Settles O14: a bit of a disabled sub-field is the base's, and so is a disabled sub-field as a
whole. -/
theorem chsSubFieldsDoNotOverlap : Obligations.ChsSubFieldsDoNotOverlap := by
  constructor
  · intro base wc wh ws c h n j hj howner
    exact packChs_getLsbD_of_not_enabled hj howner
  · intro b c v
    simp [unpackChs_packChs]

/-- Settles O15: the sub-field that a setter enables reads back as the low bits of its operand. -/
theorem chsSettersReadBack : Obligations.ChsSettersReadBack := by
  intro b c v
  simp only [responseTo_getCyl, responseTo_getHead, responseTo_getSec, responseTo_chsSetcyl,
    responseTo_chsSethead, responseTo_chsSetsec, chsUnpackOutputs_chsUnpacker,
    chsPackOutputs_chs_out_b, unpackChs_packChs, if_true, true_and, and_true]
  intro hc
  exact (toNat_extractLsb'_zero_eq_iff c 10).mpr (by omega)

/-- Settles O16. -/
theorem chsPackAfterUnpack : Obligations.ChsPackAfterUnpack :=
  packChs_unpackChs

/-- Settles O17: with every enable 1 each sub-field is the low bits of its operand, which are the
whole operand exactly when it fits. -/
theorem chsUnpackAfterPack : Obligations.ChsUnpackAfterPack := by
  intro c h n u
  have hu : u = ⟨c.extractLsb' 0 10, h, n.extractLsb' 0 6⟩ :=
    unpackChs_packChs 0 true true true c h n
  refine ⟨hu, ?_⟩
  simp only [hu, toNat_extractLsb'_zero_eq_iff, true_and]
  omega

/-- Settles O18: a packed value is known by its sub-fields, and each sub-field is what the last write
to it left, whatever was written to the others and in which order. -/
theorem chsSettersCommute : Obligations.ChsSettersCommute := by
  intro b c c' h h' n n' setC setH setS pack
  refine ⟨⟨?_, ?_, ?_, ?_, ?_, ?_⟩, ⟨?_, ?_, ?_, ?_, ?_, ?_⟩, ?_, ?_, ?_⟩
  all_goals exact unpackChs_injective (by simp [setC, setH, setS, pack, unpackChs_packChs])

/-- Settles O8. -/
theorem chsEmptyGivesZeroBytes : Obligations.ChsEmptyGivesZeroBytes :=
  fun _ => rfl

/-- Settles O9. -/
theorem chsUnpackGivesTheSubFields : Obligations.ChsUnpackGivesTheSubFields := by
  intro s b
  rw [← unpackChs_eq]
  rfl

/-- Settles O10. -/
theorem chsPackReplacesTheEnabledSubFields : Obligations.ChsPackReplacesTheEnabledSubFields := by
  intro s base wc wh ws c h n
  rw [exec_eq_answered rfl, responseTo_chsPack, chsPackOutputs, packChs_eq]
  rfl

/-- Settles O11: the three accessors give the response of `CHS_UNPACK`. -/
theorem accessorsGiveOneSubField : Obligations.AccessorsGiveOneSubField := by
  intro s b
  rw [← unpackChs_eq]
  exact ⟨rfl, rfl, rfl⟩

/-- Settles O12: every sub-field is enabled. -/
theorem chsEncodePacksATriple : Obligations.ChsEncodePacksATriple := by
  intro s c h n
  rw [exec_eq_answered rfl, responseTo_chsEncode, chsPackOutputs, packChs_eq]
  rfl

/-- Settles O13: one sub-field is enabled and the other two are the base's. For the head these stand
side by side in the base. -/
theorem settersReplaceOneSubField : Obligations.SettersReplaceOneSubField := by
  intro s b c v
  have hbyte1 : b.extractLsb' 14 2 ++ b.extractLsb' 8 6 = b.extractLsb' 8 8 :=
    BitVec.extractLsb'_append_extractLsb'_eq_extractLsb' rfl
  have hupper : b.extractLsb' 16 8 ++ b.extractLsb' 8 8 = b.extractLsb' 8 16 :=
    BitVec.extractLsb'_append_extractLsb'_eq_extractLsb' rfl
  refine ⟨⟨0, 0, ?_⟩, ⟨0, 0, ?_⟩, ⟨0, 0, ?_⟩⟩
  · rw [exec_eq_answered rfl, responseTo_chsSetcyl, chsPackOutputs, packChs_eq]
    rfl
  · rw [exec_eq_answered rfl, responseTo_chsSethead, chsPackOutputs, packChs_eq, ← hupper, ← hbyte1]
    rfl
  · rw [exec_eq_answered rfl, responseTo_chsSetsec, chsPackOutputs, packChs_eq]
    rfl

end Sys2Proof.Machine

/-! PROOFS of the LBA family (`41_lba.md`): a decode in terms of the four bytes and of the number of
bytes available, and an encode as its inverse. The responses come first, the obligations last. -/

namespace Sys2Proof.Machine

/-! ## The responses -/

/-- `trunc` says that fewer than four bytes are available (R73). -/
theorem truncated_eq_true_iff (n : BitVec 10) : truncated n = true ↔ n.toNat < 4 := by
  simp [truncated, BitVec.le_def]

/-- Fewer than four bytes: the failure, in which `lba_b` has no part (R75, R113). -/
theorem responseTo_lbaUnpack_of_lt (b : LbaBuf) {n : BitVec 10} (h : n.toNat < 4) :
    responseTo (.lbaUnpack b n) = raise (.truncatedInput n) := by
  rw [responseTo_lbaUnpack, lbaUnpackOutputs, if_pos ((truncated_eq_true_iff n).mpr h)]

/-- Four bytes or more: the value is the number on the bus that carries them (R24, R27, R73). -/
theorem responseTo_lbaUnpack_of_le (b : LbaBuf) {n : BitVec 10} (h : 4 ≤ n.toNat) :
    responseTo (.lbaUnpack b n) = { Outputs.zero with lbaUnpacker := ⟨b, 4, n - 4, false⟩ } := by
  have hfull : ¬ truncated n = true := by rw [truncated_eq_true_iff]; omega
  rw [responseTo_lbaUnpack, lbaUnpackOutputs, if_neg hfull, le32_eq_bytes4, bytes4_byteAt]

/-- The bytes are on the bus that carries the number (R24, R27, R72). -/
theorem responseTo_lbaPack (v : BitVec 32) :
    responseTo (.lbaPack v) = { Outputs.zero with lbaPacker := ⟨v, 0⟩ } := by
  conv_rhs => rw [← bytesLe32_eq v]
  rfl

/-! ## The cursor and the number of four bytes -/

/-- Taking four bytes off a count that has them does not wrap (R74). -/
theorem toNat_sub_four {n : BitVec 10} (h : 4 ≤ n.toNat) : (n - 4).toNat = n.toNat - 4 :=
  BitVec.toNat_sub_of_le h

/-- A byte placed below a number's bits is its lowest base-256 digit. -/
theorem toNat_append_byte {w : Nat} (x : BitVec w) (b : Byte) :
    (x ++ b).toNat = b.toNat + 256 * x.toNat := by
  rw [BitVec.toNat_append, ← Nat.shiftLeft_add_eq_or_of_lt b.isLt, Nat.shiftLeft_eq]
  ring

/-- The bus of four bytes as a number, the lowest offset least significant (R24, R27). -/
theorem toNat_bytes4 (b0 b1 b2 b3 : Byte) :
    (bytes4 b0 b1 b2 b3).toNat =
      b0.toNat + 256 * (b1.toNat + 256 * (b2.toNat + 256 * b3.toNat)) := by
  rw [bytes4, toNat_append_byte, toNat_append_byte, toNat_append_byte]

/-- The value of a buffer from its bytes (R27, R73). -/
theorem toNat_eq_of_bytes (b : LbaBuf) :
    b.toNat = (byteAt b 0).toNat + 256 * ((byteAt b 1).toNat + 256 * ((byteAt b 2).toNat +
      256 * (byteAt b 3).toNat)) := by
  conv_lhs => rw [← bytes4_byteAt b]
  exact toNat_bytes4 _ _ _ _

/-- A list that does not begin with four elements is shorter than that. -/
theorem length_lt_four_of_ne_cons {α : Type} {l : List α}
    (h : ∀ a b c d rest, l ≠ a :: b :: c :: d :: rest) : l.length < 4 := by
  match l with
  | [] | [_] | [_, _] | [_, _, _] => simp
  | a :: b :: c :: d :: rest => exact absurd rfl (h a b c d rest)

/-! ## The obligations -/

/-- Settles O23: the cursor moves by four exactly when the decode succeeds. -/
theorem lbaCursorAdvance : Obligations.LbaCursorAdvance := by
  intro b n
  by_cases h : 4 ≤ n.toNat
  · rw [responseTo_lbaUnpack_of_le b h, if_pos h]
    have hsum : 4 + (n - 4).toNat = n.toNat := by rw [toNat_sub_four h]; omega
    exact ⟨rfl, hsum⟩
  · rw [responseTo_lbaUnpack_of_lt b (Nat.lt_of_not_le h), if_neg h]
    exact ⟨rfl, Nat.zero_add _⟩

/-- Settles O24: the failure does not name the lanes, and the value of a success is the lanes. -/
theorem lbaNoReadOutOfBounds : Obligations.LbaNoReadOutOfBounds := by
  constructor
  · intro b b' n h
    rw [responseTo_lbaUnpack_of_lt b h, responseTo_lbaUnpack_of_lt b' h]
  · intro b b' n h hvalue
    rwa [responseTo_lbaUnpack_of_le b h, responseTo_lbaUnpack_of_le b' h] at hvalue

/-- Settles O25: the second decode starts from what the first left. -/
theorem lbaChain : Obligations.LbaChain := by
  intro b b' n first second
  have hfirst : 4 ≤ n.toNat →
      first = { Outputs.zero with lbaUnpacker := ⟨b, 4, n - 4, false⟩ } :=
    responseTo_lbaUnpack_of_le b
  have hsecond (h : 4 ≤ n.toNat) : second = responseTo (.lbaUnpack b' (n - 4)) := by
    simp only [second, hfirst h]
  refine ⟨fun h8 => ?both, fun h4 h8 => ?firstOnly, fun h4 => ?neither⟩
  case both =>
    have h4 : 4 ≤ n.toNat := by omega
    have hrest : 4 ≤ (n - 4).toNat := by rw [toNat_sub_four h4]; omega
    rw [hsecond h4, responseTo_lbaUnpack_of_le b' hrest, hfirst h4, toNat_sub_four hrest,
      toNat_sub_four h4, Nat.sub_sub]
    exact ⟨rfl, rfl, rfl⟩
  case firstOnly =>
    have hrest : (n - 4).toNat < 4 := by rw [toNat_sub_four h4]; omega
    rw [hsecond h4, responseTo_lbaUnpack_of_lt b' hrest, hfirst h4]
    exact ⟨rfl, rfl, rfl, toNat_sub_four h4⟩
  case neither =>
    rw [show first = raise (.truncatedInput n) from responseTo_lbaUnpack_of_lt b h4]
    exact ⟨rfl, rfl, rfl⟩

/-- Settles O26: decode and encode both keep the 32 bits as they are on the bus. -/
theorem lbaRoundTrip : Obligations.LbaRoundTrip := by
  constructor
  · intro b n h
    rw [responseTo_lbaUnpack_of_le b h, responseTo_lbaPack]
  · intro v n h
    rw [responseTo_lbaPack, responseTo_lbaUnpack_of_le v h]

/-- Settles O27: a list of four bytes or more fixes all the lanes, a shorter one fails whatever the
other lanes carry. -/
theorem lbaUnpackOfAHostBuffer : Obligations.LbaUnpackOfAHostBuffer := by
  intro l b n hlen hlanes
  split
  next b0 b1 b2 b3 rest =>
    have h : n.toNat = rest.length + 4 := hlen
    have h4 : 4 ≤ n.toNat := by omega
    rw [responseTo_lbaUnpack_of_le b h4, toNat_eq_of_bytes b, toNat_sub_four h4, h,
      hlanes 0 (by decide) b0 rfl, hlanes 1 (by decide) b1 rfl, hlanes 2 (by decide) b2 rfl,
      hlanes 3 (by decide) b3 rfl]
    exact ⟨rfl, rfl, rfl⟩
  next hshort =>
    have h4 : n.toNat < 4 := hlen ▸ length_lt_four_of_ne_cons hshort
    rw [responseTo_lbaUnpack_of_lt b h4]
    exact ⟨rfl, hlen⟩

/-- Settles O19. -/
theorem lbaEmptyGivesZero : Obligations.LbaEmptyGivesZero :=
  fun _ => rfl

/-- Settles O20: the four bytes on the output are the number itself. -/
theorem lbaPackIsLittleEndian : Obligations.LbaPackIsLittleEndian := by
  intro s v
  refine ⟨v, ?_, fun _ _ => rfl⟩
  rw [exec_eq_answered rfl, responseTo_lbaPack]
  rfl

/-- Settles O21: the value is the bus of the four lanes. -/
theorem lbaUnpackDecodesFourBytes : Obligations.LbaUnpackDecodesFourBytes := by
  intro s b n h
  refine ⟨b, ?_, ?_⟩
  · rw [exec_eq_answered rfl, responseTo_lbaUnpack_of_le b h]
    rfl
  · rw [toNat_eq_of_bytes b]
    ring

end Sys2Proof.Machine

/-! PROOFS of the enumeration family (`42_enums.md`): the class of a status byte and the open type
table. What the classifier and the two decoders compute comes first, the obligations last. -/

namespace Sys2Proof.Machine

/-! ## The class of a status byte -/

/-- The class with the two codes as numbers: the whole byte is compared (R42, R80). -/
theorem stClassOf_eq (x : Byte) :
    stClassOf x =
      if x.toNat = 0 then .notBootable else if x.toNat = 128 then .bootable else .invalid := by
  have h00 : x = 0x00#8 ↔ x.toNat = 0 := BitVec.toNat_inj.symm
  have h80 : x = 0x80#8 ↔ x.toNat = 128 := BitVec.toNat_inj.symm
  simp only [stClassOf, h00, h80]

/-- The abstract status keeps the class of its byte (R17, R80). -/
theorem classOfStatus_statusOfByte (x : Byte) : classOfStatus (statusOfByte x) = stClassOf x := by
  unfold statusOfByte stClassOf
  split_ifs <;> rfl

/-! ## The open type table -/

/-- The members of a table: the two mandatory ones and the further ones (R84). -/
theorem typeTableWith_eq_true_iff (more : Byte → Bool) (x : Byte) :
    Config.typeTableWith more x = true ↔ x = 0x00 ∨ x = 0x07 ∨ more x = true := by
  simp [Config.typeTableWith, or_assoc]

/-- 0x00 is in every admissible table (R84). -/
theorem typeTableWith_zero (more : Byte → Bool) : Config.typeTableWith more 0x00 = true :=
  (typeTableWith_eq_true_iff more _).mpr (.inl rfl)

/-- 0x07 is in every admissible table (R84). -/
theorem typeTableWith_seven (more : Byte → Bool) : Config.typeTableWith more 0x07 = true :=
  (typeTableWith_eq_true_iff more _).mpr (.inr (.inl rfl))

/-- A set with the two mandatory members is the table whose further members are its own (R84). -/
theorem typeTableWith_self {T : Byte → Bool} (h00 : T 0x00 = true) (h07 : T 0x07 = true) :
    Config.typeTableWith T = T := by
  funext x
  rw [Bool.eq_iff_iff, typeTableWith_eq_true_iff]
  constructor
  · rintro (rfl | rfl | hx)
    · exact h00
    · exact h07
    · exact hx
  · exact fun hx => .inr (.inr hx)

/-- The table enters the outputs of `PE_DECODE` at `type_known` alone (R84, R89). -/
theorem decodeEntryWith_eq (m m' : Byte → Bool) (B : EntryBuf) :
    decodeEntryWith m B =
      { decodeEntryWith m' B with type_known := Config.typeTableWith m (byteAt B 4) } := rfl

/-- Slot `k` of the decoded sector (R100). -/
theorem decodeSectorWith_slots_get (m : Byte → Bool) (B : SectorBuf) (k : Fin 4) :
    (decodeSectorWith m B).slots.get k = decodeSlotWith m B k := by
  fin_cases k <;> rfl

/-! ## The responses -/

theorem responseTo_stClassify (x : Byte) :
    responseTo (.stClassify x) =
      { Outputs.zero with enumClassifier := ⟨stClassOf x, false⟩ } := rfl

theorem responseTo_tyClassify (x : Byte) :
    responseTo (.tyClassify x) =
      { Outputs.zero with
        enumClassifier := ⟨.notBootable, Config.typeTableWith Config.furtherTypes x⟩ } := rfl

/-! ## The obligations -/

/-- Settles O30: a table has the two mandatory members, such a set is its own table, and each decoder
reads the table at `type_known` alone. -/
theorem typeTableIsOpen : Obligations.TypeTableIsOpen := by
  refine ⟨fun T => ⟨?isTable, ?hasMembers⟩, fun m m' B => ?entry, ?sector⟩
  case isTable =>
    rintro ⟨h00, h07⟩
    exact ⟨T, typeTableWith_self h00 h07⟩
  case hasMembers =>
    rintro ⟨more, rfl⟩
    exact ⟨typeTableWith_zero more, typeTableWith_seven more⟩
  case entry => rw [decodeEntryWith_eq m m' B]
  case sector =>
    intro m m' B k a b
    have ha : a = decodeSlotWith m B k := decodeSectorWith_slots_get m B k
    have hb : b = decodeSlotWith m' B k := decodeSectorWith_slots_get m' B k
    rw [ha, hb, decodeSlotWith, decodeEntryWith_eq m m', decodeSlotWith]
    exact ⟨rfl, rfl, rfl⟩

/-- Settles O28. -/
theorem stClassifyGivesTheClass : Obligations.StClassifyGivesTheClass := by
  intro s x
  rw [exec_eq_answered rfl, responseTo_stClassify, stClassOf_eq]
  rfl

/-- Settles O29: the two mandatory members are in the table whatever the further ones are. -/
theorem tyClassifyLooksUpTheTable : Obligations.TyClassifyLooksUpTheTable := by
  refine ⟨fun s x => ?_, ?_, ?_⟩
  · rw [exec_eq_answered rfl, responseTo_tyClassify]
    rfl
  · rw [responseTo_tyClassify]
    exact typeTableWith_zero Config.furtherTypes
  · rw [responseTo_tyClassify]
    exact typeTableWith_seven Config.furtherTypes

/-- Settles O31: the maps are inverse (R82), and both classes are that of the byte. -/
theorem statusAndByteDetermineEachOther : Obligations.StatusAndByteDetermineEachOther := by
  refine ⟨statusOfByte_byteOfStatus, byteOfStatus_statusOfByte, fun x => ?_⟩
  rw [responseTo_stClassify, classOfStatus_statusOfByte]

end Sys2Proof.Machine

/-! PROOFS of the partition entry family (`43_partition_entry.md`): the two operations through the
document's aggregate (R19), whose decode and encode are inverse to each other. What each operation
computes from the fields and what each byte and each output depends on come first, the obligations
last. -/

namespace Sys2Proof.Machine

/-! ## Buffers and their bytes -/

/-- A buffer read out of a larger one depends on the bytes read alone (R8). -/
theorem memRead_congr {w off n : Nat} {b b' : BitVec w}
    (h : ∀ k ∈ List.range' off n, byteAt b k = byteAt b' k) : memRead b off n = memRead b' off n :=
  memRead_eq_of_byteAt_eq fun i hi =>
    (h _ (List.mem_range'_1.mpr ⟨by omega, by omega⟩)).trans (byteAt_memRead b' hi).symm

/-- A buffer read out of a larger one is zero exactly when all its bytes are. -/
theorem memRead_eq_zero_iff {w : Nat} (b : BitVec w) (off n : Nat) :
    memRead b off n = 0 ↔ ∀ i < n, byteAt b (off + i) = 0 := by
  have hzero (i : Nat) : byteAt (0 : BitVec (8 * n)) i = 0 := by simp [byteAt]
  constructor
  · intro h i hi
    rw [← byteAt_memRead b hi, h, hzero]
  · exact fun h => memRead_eq_of_byteAt_eq fun i hi => (h i hi).trans (hzero i).symm

/-- A value whose bits from `n` on are zero is its low `n` bits, widened again. -/
theorem setWidth_extractLsb'_zero_of_lt {w n : Nat} {x : BitVec w} (h : x.toNat < 2 ^ n) :
    (x.extractLsb' 0 n).setWidth w = x := by
  apply BitVec.eq_of_toNat_eq
  rw [BitVec.toNat_setWidth, (toNat_extractLsb'_zero_eq_iff x n).mpr h, Nat.mod_eq_of_lt x.isLt]

/-- `CHS_UNPACK` of three bytes inside a buffer (R90). -/
theorem unpackChs_memRead {w : Nat} (b : BitVec w) (off : Nat) :
    unpackChs (memRead b off 3) =
      ⟨cylinderOf (byteAt b (off + 1)) (byteAt b (off + 2)), byteAt b off,
        sectorOf (byteAt b (off + 1))⟩ := by
  rw [unpackChs, byteAt_memRead b (by decide), byteAt_memRead b (by decide),
    byteAt_memRead b (by decide)]
  rfl

/-! ## The decoder -/

/-- The fifteen outputs of `PE_DECODE` as functions of the document's entry (R19, R89), each of one of
its fields but `unused`, which looks at two (R92). -/
def entryOutputs (more : Byte → Bool) (p : PartitionEntry) : EntryOut where
  status := byteOfStatus p.status
  st_class := classOfStatus p.status
  chs_first_b := p.chs_first
  cyl_first := (unpackChs p.chs_first).cyl
  head_first := (unpackChs p.chs_first).head
  sec_first := (unpackChs p.chs_first).sec
  ptype := p.partition_type
  type_known := Config.typeTableWith more p.partition_type
  chs_last_b := p.chs_last
  cyl_last := (unpackChs p.chs_last).cyl
  head_last := (unpackChs p.chs_last).head
  sec_last := (unpackChs p.chs_last).sec
  lba_first := p.lba_first
  lba_length := p.lba_length
  unused := unusedSlot p.partition_type p.lba_length

/-- `PE_DECODE` shows the document's entry (R19, R89). -/
theorem decodeEntryWith_eq_entryOutputs (more : Byte → Bool) (B : EntryBuf) :
    decodeEntryWith more B = entryOutputs more (entryOfBytes B) := by
  simp only [decodeEntryWith, entryOutputs, entryOfBytes_eq, byteOfStatus_statusOfByte,
    classOfStatus_statusOfByte, unpackChs_memRead, le32_eq_bytes4, ← bytes4_byteAt_eq_memRead]

/-- With four bytes or more an `LBA_unpacker` passes its bus on and takes four off the count (R73). -/
theorem lbaUnpackOutputs_of_le (b : LbaBuf) {n : BitVec 10} (h : 4 ≤ n.toNat) :
    lbaUnpackOutputs b n = { Outputs.zero with lbaUnpacker := ⟨b, 4, n - 4, false⟩ } := by
  rw [← responseTo_lbaUnpack, responseTo_lbaUnpack_of_le b h]

/-- The six sub-units together show the document's entry too: the first `LBA_unpacker` has eight bytes
and leaves the second four (R90). -/
theorem decodeEntryByUnits_eq_entryOutputs (more : Byte → Bool) (B : EntryBuf) :
    decodeEntryByUnits more B = entryOutputs more (entryOfBytes B) := by
  have hbyte (i : Nat) : memRead B i 1 = byteAt B i := rfl
  simp only [decodeEntryByUnits, entryOutputs, entryOfBytes_eq, byteOfStatus_statusOfByte,
    classOfStatus_statusOfByte, hbyte,
    lbaUnpackOutputs_of_le _ (show 4 ≤ (8 : BitVec 10).toNat by decide),
    lbaUnpackOutputs_of_le _ (show 4 ≤ (8 - 4 : BitVec 10).toNat by decide)]

/-- Each output is a function of its own bytes of the buffer (R92, R99). -/
theorem entryOutputs_read_congr (more : Byte → Bool) {B B' : EntryBuf} {p : EntryPort}
    (h : ∀ k ∈ p.ownBytes, byteAt B k = byteAt B' k) :
    (entryOutputs more (entryOfBytes B)).read p = (entryOutputs more (entryOfBytes B')).read p := by
  rw [entryOfBytes_eq, entryOfBytes_eq]
  cases p with
  | status | st_class =>
    have hstatus : byteAt B 0 = byteAt B' 0 := h 0 (List.mem_singleton_self 0)
    simp only [EntryOut.read, entryOutputs, hstatus]
  | chs_first_b | cyl_first | head_first | sec_first =>
    have hfirst : memRead B 1 3 = memRead B' 1 3 := memRead_congr h
    simp only [EntryOut.read, entryOutputs, hfirst]
  | ptype | type_known =>
    have htype : byteAt B 4 = byteAt B' 4 := h 4 (List.mem_singleton_self 4)
    simp only [EntryOut.read, entryOutputs, htype]
  | chs_last_b | cyl_last | head_last | sec_last =>
    have hlast : memRead B 5 3 = memRead B' 5 3 := memRead_congr h
    simp only [EntryOut.read, entryOutputs, hlast]
  | lba_first =>
    have hlba : memRead B 8 4 = memRead B' 8 4 := memRead_congr h
    simp only [EntryOut.read, entryOutputs, hlba]
  | lba_length =>
    have hlba : memRead B 12 4 = memRead B' 12 4 := memRead_congr h
    simp only [EntryOut.read, entryOutputs, hlba]
  | unused =>
    obtain ⟨htype, hbytes⟩ := List.forall_mem_cons.mp h
    have hlba : memRead B 12 4 = memRead B' 12 4 := memRead_congr hbytes
    simp only [EntryOut.read, entryOutputs, htype, hlba]

@[simp] theorem responseTo_peDecode (B : EntryBuf) :
    responseTo (.peDecode B) =
      { Outputs.zero with partitionDecoder := entryOutputs Config.furtherTypes (entryOfBytes B) } := by
  rw [← decodeEntryWith_eq_entryOutputs]
  rfl

/-! ## The encoder -/

/-- `CHS_PACK` with every enable 1 over an empty base, byte by byte (R61, R95). -/
theorem packChs_all_enabled (c : BitVec 16) (h n : Byte) :
    packChs ⟨0, true, true, true, c, h, n⟩ = bytes3 h (chsByte1 c n) (cylLowByte c) := rfl

/-- Two groups, each a byte and three more, and two further groups as one row of fields: the bytes join
in either grouping (R7, R44). -/
theorem bytes16_bytes4_eq_append (x0 x4 a0 a1 a2 b0 b1 b2 : Byte) (q2 q3 : LbaBuf) :
    bytes16 (bytes4 x0 a0 a1 a2) (bytes4 x4 b0 b1 b2) q2 q3 =
      q3 ++ q2 ++ bytes3 b0 b1 b2 ++ x4 ++ bytes3 a0 a1 a2 ++ x0 := by
  have hlast : q3 ++ q2 ++ (bytes3 b0 b1 b2 ++ x4) = q3 ++ q2 ++ bytes3 b0 b1 b2 ++ x4 :=
    (BitVec.append_assoc (x₁ := q3 ++ q2)).symm
  calc bytes16 (bytes4 x0 a0 a1 a2) (bytes4 x4 b0 b1 b2) q2 q3
      = q3 ++ q2 ++ (bytes3 b0 b1 b2 ++ x4) ++ (bytes3 a0 a1 a2 ++ x0) := rfl
    _ = q3 ++ q2 ++ (bytes3 b0 b1 b2 ++ x4) ++ bytes3 a0 a1 a2 ++ x0 :=
        (BitVec.append_assoc (x₁ := q3 ++ q2 ++ (bytes3 b0 b1 b2 ++ x4))).symm
    _ = _ := by rw [hlast]

/-- `PE_ENCODE` lays its six fields side by side, as its four sub-units and two passed bytes do (R91,
R95). -/
theorem encodeEntry_eq_encodeEntryByUnits (e : EntryIn) : encodeEntry e = encodeEntryByUnits e := by
  rw [encodeEntry, bytes16_bytes4_eq_append]
  rfl

/-- The document's entry with the fields of `e`, each CHS triple packed (R19, R48). -/
def packedEntry (e : EntryIn) : PartitionEntry where
  status := statusOfByte e.status_in
  chs_first := packChs ⟨0, true, true, true, e.cyl_first_in, e.head_first_in, e.sec_first_in⟩
  partition_type := e.ptype_in
  chs_last := packChs ⟨0, true, true, true, e.cyl_last_in, e.head_last_in, e.sec_last_in⟩
  lba_first := e.lba_first_in
  lba_length := e.lba_length_in

/-- `PE_ENCODE` gives the bytes of the document's entry (R19, R91). -/
theorem encodeEntry_eq_bytesOfEntry (e : EntryIn) : encodeEntry e = bytesOfEntry (packedEntry e) := by
  simp only [encodeEntry, bytesOfEntry_eq, packedEntry, byteOfStatus_statusOfByte, packChs_all_enabled,
    byteAt_bytes3, bytesLe32_eq]

/-- The bytes of the document's entry are those of its fields on the encoder's ports (R19, R96). -/
theorem encodeEntry_fieldsOf_entryOutputs (more : Byte → Bool) (p : PartitionEntry) :
    encodeEntry (fieldsOf (entryOutputs more p)) = bytesOfEntry p := rfl

/-- An entry is in range when its cylinders fit 10 bits and its sectors 6 (R15). -/
theorem inRange_eq_true_iff (e : EntryIn) :
    e.inRange = true ↔
      e.cyl_first_in.toNat < 2 ^ 10 ∧ e.sec_first_in.toNat < 2 ^ 6 ∧
        e.cyl_last_in.toNat < 2 ^ 10 ∧ e.sec_last_in.toNat < 2 ^ 6 := by
  simp only [EntryIn.inRange, Bool.and_eq_true, decide_eq_true_eq]
  omega

/-- Packing an entry's fields and reading them again cuts the cylinders to 10 bits and the sectors to 6
(R48, R97). -/
theorem fieldsOf_entryOutputs_packedEntry (more : Byte → Bool) (e : EntryIn) :
    fieldsOf (entryOutputs more (packedEntry e)) =
      { e with
        cyl_first_in := (e.cyl_first_in.extractLsb' 0 10).setWidth 16
        sec_first_in := (e.sec_first_in.extractLsb' 0 6).setWidth 8
        cyl_last_in := (e.cyl_last_in.extractLsb' 0 10).setWidth 16
        sec_last_in := (e.sec_last_in.extractLsb' 0 6).setWidth 8 } := by
  simp only [fieldsOf, entryOutputs, packedEntry, byteOfStatus_statusOfByte, unpackChs_packChs,
    if_true]

/-- Which of the six fields laid side by side holds each byte (R44). The right-hand side is the case
distinction of `sameEntryFieldAt`; `byteAt_append` takes the fields off one at a time. -/
theorem byteAt_append_fields (ll lf : LbaBuf) (last : ChsBuf) (ty : Byte) (first : ChsBuf) (st : Byte)
    (k : Nat) :
    byteAt (ll ++ lf ++ last ++ ty ++ first ++ st) k =
      if k = 0 then st
      else if k ≤ 3 then byteAt first (k - 1)
      else if k = 4 then ty
      else if k ≤ 7 then byteAt last (k - 5)
      else if k ≤ 11 then byteAt lf (k - 8)
      else byteAt ll (k - 12) := by
  have hst := byteAt_append 1 (ll ++ lf ++ last ++ ty ++ first) st k
  have hfirst := byteAt_append 3 (ll ++ lf ++ last ++ ty) first (k - 1)
  have hty := byteAt_append 1 (ll ++ lf ++ last) ty (k - 1 - 3)
  have hlast := byteAt_append 3 (ll ++ lf) last (k - 1 - 3 - 1)
  have hlf := byteAt_append 4 ll lf (k - 1 - 3 - 1 - 3)
  rw [hst, hfirst, hty, hlast, hlf]
  grind [byteAt_zero]

/-- Which field holds each byte of an encoded entry (R44, R91). -/
theorem byteAt_encodeEntry (e : EntryIn) (k : Nat) :
    byteAt (encodeEntry e) k =
      if k = 0 then e.status_in
      else if k ≤ 3 then byteAt (packedEntry e).chs_first (k - 1)
      else if k = 4 then e.ptype_in
      else if k ≤ 7 then byteAt (packedEntry e).chs_last (k - 5)
      else if k ≤ 11 then byteAt e.lba_first_in (k - 8)
      else byteAt e.lba_length_in (k - 12) := by
  rw [encodeEntry_eq_encodeEntryByUnits, encodeEntryByUnits, bytesLe32_eq, bytesLe32_eq]
  exact byteAt_append_fields _ _ _ _ _ _ k

/-- An encoded byte is a function of the field that holds it (R99). -/
theorem byteAt_encodeEntry_congr {e f : EntryIn} {k : Nat} (h : sameEntryFieldAt k e f) :
    byteAt (encodeEntry e) k = byteAt (encodeEntry f) k := by
  rw [byteAt_encodeEntry, byteAt_encodeEntry]
  unfold sameEntryFieldAt at h
  split_ifs at h ⊢ with h0 h3 h4 h7 h11
  · exact h
  · obtain ⟨hcyl, hhead, hsec⟩ := h
    simp only [packedEntry, hcyl, hhead, hsec]
  · exact h
  · obtain ⟨hcyl, hhead, hsec⟩ := h
    simp only [packedEntry, hcyl, hhead, hsec]
  · rw [h]
  · rw [h]

@[simp] theorem responseTo_peEncode (e : EntryIn) :
    responseTo (.peEncode e) = { Outputs.zero with partitionEncoder := ⟨encodeEntry e⟩ } := rfl

/-! ## The obligations -/

/-- Settles O35: the decoder and its six sub-units show the same entry, and each `LBA_unpacker` has four
bytes or more. -/
theorem peDecodeIsItsStructure : Obligations.PeDecodeIsItsStructure := by
  intro B
  refine ⟨?_, ?_⟩
  · rw [responseTo_peDecode, decodeEntryByUnits_eq_entryOutputs]
  · rw [responseTo_lbaUnpack_of_le _ (by decide : 4 ≤ (8 : BitVec 10).toNat)]
    refine ⟨rfl, rfl, ?_⟩
    rw [responseTo_lbaUnpack_of_le _ (by decide : 4 ≤ (8 - 4 : BitVec 10).toNat)]
    rfl

/-- Settles O36. -/
theorem peEncodeIsItsStructure : Obligations.PeEncodeIsItsStructure :=
  encodeEntry_eq_encodeEntryByUnits

/-- Settles O37: the length is zero when its four bytes are. -/
theorem unusedLooksAtTypeAndLength : Obligations.UnusedLooksAtTypeAndLength := by
  intro B
  have hlength : memRead B 12 4 = 0 ↔
      byteAt B 12 = 0 ∧ byteAt B 13 = 0 ∧ byteAt B 14 = 0 ∧ byteAt B 15 = 0 := by
    rw [memRead_eq_zero_iff]
    constructor
    · exact fun h => ⟨h 0 (by decide), h 1 (by decide), h 2 (by decide), h 3 (by decide)⟩
    · rintro ⟨h12, h13, h14, h15⟩ i hi
      interval_cases i
      exacts [h12, h13, h14, h15]
  rw [responseTo_peDecode, entryOfBytes_eq, ← hlength]
  simp [entryOutputs, unusedSlot]

/-- Settles O38: the bytes of the entry that the decoder shows are the bytes decoded. -/
theorem entryEncodeAfterDecode : Obligations.EntryEncodeAfterDecode := by
  intro B
  rw [responseTo_peDecode, responseTo_peEncode, encodeEntry_fieldsOf_entryOutputs,
    bytesOfEntry_entryOfBytes]

/-- Settles O39: the entry decoded is the one that was packed, and a field in range loses no bit. -/
theorem entryDecodeAfterEncode : Obligations.EntryDecodeAfterEncode := by
  intro e back
  have hback : back = fieldsOf (entryOutputs Config.furtherTypes (packedEntry e)) := by
    simp only [back, responseTo_peDecode, responseTo_peEncode, encodeEntry_eq_bytesOfEntry,
      entryOfBytes_bytesOfEntry]
  rw [hback, fieldsOf_entryOutputs_packedEntry]
  refine ⟨rfl, fun hrange => ?_⟩
  obtain ⟨hcylFirst, hsecFirst, hcylLast, hsecLast⟩ := (inRange_eq_true_iff e).mp hrange
  rw [setWidth_extractLsb'_zero_of_lt hcylFirst, setWidth_extractLsb'_zero_of_lt hsecFirst,
    setWidth_extractLsb'_zero_of_lt hcylLast, setWidth_extractLsb'_zero_of_lt hsecLast]

/-- Settles O41: an output reads the entry at its own bytes, and an encoded byte is that of one field. -/
theorem entryFieldsAreIndependent : Obligations.EntryFieldsAreIndependent := by
  refine ⟨fun B B' p hbytes => ?decoder, fun e f k _ hfield => ?encoder⟩
  case decoder =>
    rw [responseTo_peDecode, responseTo_peDecode]
    exact entryOutputs_read_congr _ hbytes
  case encoder =>
    rw [responseTo_peEncode, responseTo_peEncode]
    exact byteAt_encodeEntry_congr hfield

/-- Settles O32: four zero groups are one zero bus. -/
theorem peEmptyGivesZeroBytes : Obligations.PeEmptyGivesZeroBytes :=
  fun _ => rfl

/-- Settles O33: the two CHS values are unpacked in place. -/
theorem peDecodeGivesTheFields : Obligations.PeDecodeGivesTheFields := by
  intro s B
  rw [exec_eq_answered rfl, responseTo_peDecode, ← decodeEntryWith_eq_entryOutputs, decodeEntryWith,
    le32_eq_bytes4, le32_eq_bytes4, bytes4_byteAt_eq_memRead B 8, bytes4_byteAt_eq_memRead B 12]
  simp only [cylinderOf_eq, sectorOf_eq, extractLsb'_byteAt B _ (show 6 + 2 ≤ 8 by decide),
    extractLsb'_byteAt B _ (show 0 + 6 ≤ 8 by decide)]
  rfl

/-- Settles O34. -/
theorem peEncodePlacesTheFields : Obligations.PeEncodePlacesTheFields := by
  intro s e
  rw [exec_eq_answered rfl, responseTo_peEncode, encodeEntry_eq_encodeEntryByUnits,
    encodeEntryByUnits, packChs_eq, packChs_eq, bytesLe32_eq, bytesLe32_eq]
  rfl

/-- Settles O40: sixteen zero bytes are the document's empty entry. -/
theorem emptyEntryRoundTrip : Obligations.EmptyEntryRoundTrip := by
  obtain ⟨-, -, hempty⟩ := partitionEntryAndBytesDetermineEachOther
  have hdecode : responseTo (.peDecode (responseTo .peEmpty).partitionEncoder.pe_out_b) =
      { Outputs.zero with partitionDecoder := entryOutputs Config.furtherTypes emptyEntry } := by
    rw [← hempty, responseTo_peDecode, entryOfBytes_bytesOfEntry]
  simp only [Obligations.EmptyEntryRoundTrip, hdecode]
  exact ⟨rfl, rfl, rfl, hempty⟩

end Sys2Proof.Machine

/-! PROOFS of the sector container family (`44_sector.md`): a sector as its regions in offset order, the
bootstrap area, the four slots and the signature (R33, R45). What stands at each offset of a sector put
together from its regions comes first, then what the decoder reads and the encoder writes there; the
obligations come last. -/

namespace Sys2Proof.Machine

/-! ## Slots and buffers -/

@[simp] theorem Slots.get_map {α β : Type} (f : α → β) (v : Slots α) (k : Fin 4) :
    (v.map f).get k = f (v.get k) := by
  fin_cases k <;> rfl

/-- Every byte of an all-zero buffer is zero. -/
theorem byteAt_zero_buffer (w i : Nat) : byteAt (0 : BitVec w) i = 0 := by
  simp [byteAt]

theorem byteAt_and {w : Nat} (a b : BitVec w) (i : Nat) :
    byteAt (a &&& b) i = byteAt a i &&& byteAt b i :=
  BitVec.extractLsb'_and

/-- The bytes of a number placed `k` bytes up: its digits to the base 256 from there on (R27), zeros
below. -/
theorem byteAt_ofNat_shiftLeft {n : Nat} (x k : Nat) {i : Nat} (hi : i < n) :
    byteAt (BitVec.ofNat (8 * n) x <<< (8 * k)) i =
      if i < k then 0 else BitVec.ofNat 8 (x >>> (8 * (i - k))) := by
  apply BitVec.eq_of_getLsbD_eq
  intro j hj
  have hbus : 8 * i + j < 8 * n := by omega
  rw [byteAt_getLsbD, BitVec.getLsbD_shiftLeft, decide_eq_true hj, decide_eq_true hbus]
  split
  next h => simp [show 8 * i + j < 8 * k by omega]
  next h =>
    have hdigit : 8 * i + j - 8 * k = 8 * (i - k) + j := by omega
    rw [decide_eq_false (by omega), BitVec.getLsbD_ofNat, BitVec.getLsbD_ofNat,
      Nat.testBit_shiftRight, hdigit, decide_eq_true (by omega), decide_eq_true hj]
    rfl

/-! ## A sector and its regions -/

/-- Which region holds each byte of a sector (R33, R45); `byteAt_append` takes the regions off one at a
time. -/
theorem byteAt_sectorBytes (boot : BootBuf) (e : Slots EntryBuf) (g0 g1 : Byte) (i : Nat) :
    byteAt (sectorBytes boot e g0 g1) i =
      if i < 446 then byteAt boot i
      else if i < 462 then byteAt e.s0 (i - 446)
      else if i < 478 then byteAt e.s1 (i - 462)
      else if i < 494 then byteAt e.s2 (i - 478)
      else if i < 510 then byteAt e.s3 (i - 494)
      else if i < 511 then g0
      else byteAt g1 (i - 511) := by
  have hboot := byteAt_append 446 (g1 ++ g0 ++ e.s3 ++ e.s2 ++ e.s1 ++ e.s0) boot i
  have h0 := byteAt_append 16 (g1 ++ g0 ++ e.s3 ++ e.s2 ++ e.s1) e.s0 (i - 446)
  have h1 := byteAt_append 16 (g1 ++ g0 ++ e.s3 ++ e.s2) e.s1 (i - 446 - 16)
  have h2 := byteAt_append 16 (g1 ++ g0 ++ e.s3) e.s2 (i - 446 - 16 - 16)
  have h3 := byteAt_append 16 (g1 ++ g0) e.s3 (i - 446 - 16 - 16 - 16)
  have hsig := byteAt_append 1 g1 g0 (i - 446 - 16 - 16 - 16 - 16)
  rw [sectorBytes, hboot, h0, h1, h2, h3, hsig]
  grind [byteAt_zero]

/-- The bootstrap area is at offsets 0 to 445. -/
theorem byteAt_sectorBytes_boot (boot : BootBuf) (e : Slots EntryBuf) (g0 g1 : Byte) {i : Nat}
    (hi : i < 446) : byteAt (sectorBytes boot e g0 g1) i = byteAt boot i := by
  rw [byteAt_sectorBytes, if_pos hi]

/-- Slot `k` is at offset `446 + 16k` (R107). -/
theorem byteAt_sectorBytes_slot (boot : BootBuf) (e : Slots EntryBuf) (g0 g1 : Byte) (k : Fin 4)
    {j : Nat} (hj : j < 16) :
    byteAt (sectorBytes boot e g0 g1) (446 + 16 * k.val + j) = byteAt (e.get k) j := by
  rw [byteAt_sectorBytes]
  fin_cases k <;> simp only [Slots.get] <;> grind

@[simp] theorem byteAt_sectorBytes_sig0 (boot : BootBuf) (e : Slots EntryBuf) (g0 g1 : Byte) :
    byteAt (sectorBytes boot e g0 g1) 510 = g0 :=
  byteAt_sectorBytes boot e g0 g1 510

@[simp] theorem byteAt_sectorBytes_sig1 (boot : BootBuf) (e : Slots EntryBuf) (g0 g1 : Byte) :
    byteAt (sectorBytes boot e g0 g1) 511 = g1 :=
  (byteAt_sectorBytes boot e g0 g1 511).trans (byteAt_zero g1)

/-- The bytes from 446 on do not depend on the bootstrap area. -/
theorem byteAt_sectorBytes_congr_boot (boot boot' : BootBuf) (e : Slots EntryBuf) (g0 g1 : Byte)
    {i : Nat} (hi : 446 ≤ i) :
    byteAt (sectorBytes boot e g0 g1) i = byteAt (sectorBytes boot' e g0 g1) i := by
  have hboot : ¬ i < 446 := by omega
  rw [byteAt_sectorBytes, byteAt_sectorBytes, if_neg hboot, if_neg hboot]

/-- Every offset of a sector is in the bootstrap area, in a slot or in the signature (R33). -/
theorem sector_offset_cases {i : Nat} (hi : i < 512) :
    i < 446 ∨ (∃ (k : Fin 4) (j : Nat), j < 16 ∧ i = 446 + 16 * k.val + j) ∨ i = 510 ∨ i = 511 := by
  by_cases hslot : 446 ≤ i ∧ i < 510
  · exact .inr (.inl ⟨⟨(i - 446) / 16, by omega⟩, (i - 446) % 16, by omega, by dsimp only; omega⟩)
  · omega

/-- Byte `j` of slot `k`. -/
theorem byteAt_slotBytes (B : SectorBuf) (k : Nat) {j : Nat} (hj : j < 16) :
    byteAt (slotBytes B k) j = byteAt B (446 + 16 * k + j) :=
  byteAt_memRead B hj

/-- A sector put together again from its regions. -/
theorem sectorBytes_of_regions (B : SectorBuf) {e : Slots EntryBuf}
    (he : ∀ k : Fin 4, e.get k = slotBytes B k) :
    sectorBytes (memRead B 0 446) e (byteAt B 510) (byteAt B 511) = B := by
  refine eq_of_byteAt_eq (n := 512) fun i hi => ?_
  obtain hboot | ⟨k, j, hj, rfl⟩ | rfl | rfl := sector_offset_cases hi
  · rw [byteAt_sectorBytes_boot _ _ _ _ hboot, byteAt_memRead B hboot, Nat.zero_add]
  · rw [byteAt_sectorBytes_slot _ _ _ _ k hj, he, byteAt_slotBytes B k hj]
  · exact byteAt_sectorBytes_sig0 _ _ _ _
  · exact byteAt_sectorBytes_sig1 _ _ _ _

/-- Reading the bootstrap area out of a sector put together. -/
theorem memRead_sectorBytes_boot (boot : BootBuf) (e : Slots EntryBuf) (g0 g1 : Byte) :
    memRead (sectorBytes boot e g0 g1) 0 446 = boot := by
  refine memRead_eq_of_byteAt_eq (n := 446) fun i hi => ?_
  rw [Nat.zero_add, byteAt_sectorBytes_boot _ _ _ _ hi]

/-- Reading a slot out of a sector put together. -/
theorem slotBytes_sectorBytes (boot : BootBuf) (e : Slots EntryBuf) (g0 g1 : Byte) (k : Fin 4) :
    slotBytes (sectorBytes boot e g0 g1) k = e.get k :=
  memRead_eq_of_byteAt_eq (n := 16) fun _ hj => byteAt_sectorBytes_slot boot e g0 g1 k hj

/-- A slot depends on bytes from 446 on alone. -/
theorem slotBytes_congr {B B' : SectorBuf} (h : ∀ i, 446 ≤ i → byteAt B i = byteAt B' i) (k : Nat) :
    slotBytes B k = slotBytes B' k :=
  memRead_eq_of_byteAt_eq (n := 16) fun j hj =>
    (h _ (by simp only [Config.ptOffset]; omega)).trans (byteAt_slotBytes B' k hj).symm

/-! ## The decoder -/

/-- `sig_ok`: two whole-byte comparisons (R101). -/
theorem signatureOk_eq_true_iff (B : SectorBuf) :
    signatureOk B = true ↔ byteAt B 510 = 0x55 ∧ byteAt B 511 = 0xAA := by
  rw [signatureOk, Bool.and_eq_true, beq_iff_eq, beq_iff_eq]
  rfl

/-- The two fixed bytes as a match under a mask: it covers them and no other byte (R45). -/
theorem and_signatureMask_eq_iff (B : SectorBuf) :
    B &&& (0xFFFF#4096 <<< 4080) = 0xAA55#4096 <<< 4080 ↔
      byteAt B 510 = 0x55 ∧ byteAt B 511 = 0xAA := by
  have hbyte (x : Nat) {i : Nat} (hi : i < 512) : byteAt (BitVec.ofNat 4096 x <<< 4080) i =
      if i < 510 then 0 else BitVec.ofNat 8 (x >>> (8 * (i - 510))) :=
    byteAt_ofNat_shiftLeft (n := 512) x 510 hi
  have h510 (x : Nat) : byteAt (BitVec.ofNat 4096 x <<< 4080) 510 = BitVec.ofNat 8 x :=
    hbyte x (by decide)
  have h511 (x : Nat) : byteAt (BitVec.ofNat 4096 x <<< 4080) 511 = BitVec.ofNat 8 (x >>> 8) :=
    hbyte x (by decide)
  have hones (b : Byte) : b &&& 0xFF#8 = b := BitVec.and_allOnes
  constructor
  · intro h
    have hsig0 := congrArg (byteAt · 510) h
    have hsig1 := congrArg (byteAt · 511) h
    simp only [byteAt_and, h510, h511] at hsig0 hsig1
    exact ⟨(hones _).symm.trans hsig0, (hones _).symm.trans hsig1⟩
  · rintro ⟨hsig0, hsig1⟩
    refine eq_of_byteAt_eq (n := 512) fun i hi => ?_
    obtain hi | rfl | rfl : i < 510 ∨ i = 510 ∨ i = 511 := by omega
    · rw [byteAt_and, hbyte _ (by omega), hbyte _ (by omega), if_pos hi, if_pos hi]
      exact BitVec.and_zero
    · rw [byteAt_and, hsig0, h510, h510]; rfl
    · rw [byteAt_and, hsig1, h511, h511]; rfl

/-- With the signature `MBR_DECODE` shows the regions of the sector (R100). -/
theorem mbrDecodeOutputs_of_signatureOk {B : SectorBuf} (h : signatureOk B = true) :
    mbrDecodeOutputs B =
      { Outputs.zero with sectorDecoder := decodeSectorWith Config.furtherTypes B } :=
  if_pos h

/-- The gate passes the regions of the sector on, or zeros (R100). -/
theorem mbrDecodeOutputs_sectorDecoder (B : SectorBuf) :
    (mbrDecodeOutputs B).sectorDecoder =
      if signatureOk B then decodeSectorWith Config.furtherTypes B
      else Outputs.zero.sectorDecoder := by
  unfold mbrDecodeOutputs
  split <;> rfl

/-- `sig_ok` is the signature check (R101). -/
theorem mbrDecodeOutputs_sig_ok (B : SectorBuf) :
    (mbrDecodeOutputs B).sectorDecoder.sig_ok = signatureOk B := by
  rw [mbrDecodeOutputs_sectorDecoder]
  split
  next h => exact h.symm
  next h => exact (Bool.eq_false_iff.mpr h).symm

/-- `err` follows the signature check (R101, R114). -/
theorem mbrDecodeOutputs_err (B : SectorBuf) :
    (mbrDecodeOutputs B).err = if signatureOk B then .noFailure else .invalidSignature := by
  unfold mbrDecodeOutputs
  split <;> rfl

/-- `PE_DECODE` computes what its sub-units do (R90). -/
theorem decodeEntryWith_eq_decodeEntryByUnits (more : Byte → Bool) (B : EntryBuf) :
    decodeEntryWith more B = decodeEntryByUnits more B := by
  rw [decodeEntryWith_eq_entryOutputs, decodeEntryByUnits_eq_entryOutputs]

/-- The comparators and the four entry decoders do the same (R110). -/
theorem sectorDecoderByUnits_eq (more : Byte → Bool) (B : SectorBuf) :
    sectorDecoderByUnits more B =
      if signatureOk B then decodeSectorWith more B else Outputs.zero.sectorDecoder := by
  have hgate : (memRead B 510 1 == Config.sig0 && memRead B 511 1 == Config.sig1) =
      signatureOk B := rfl
  simp only [sectorDecoderByUnits, hgate, ← decodeEntryWith_eq_decodeEntryByUnits]
  split
  next h => rw [h]; rfl
  next h => rw [Bool.eq_false_iff.mpr h]; rfl

/-- Encoding the decoded fields of an entry gives its bytes back (R96). -/
theorem encodeEntry_fieldsOf_decodeEntryWith (more : Byte → Bool) (B : EntryBuf) :
    encodeEntry (fieldsOf (decodeEntryWith more B)) = B := by
  rw [decodeEntryWith_eq_entryOutputs, encodeEntry_fieldsOf_entryOutputs, bytesOfEntry_entryOfBytes]

/-- The outputs with another value on `boot_out_b`. -/
def Outputs.withBoot (o : Outputs) (b : BootBuf) : Outputs :=
  { o with sectorDecoder := { o.sectorDecoder with boot_out_b := b } }

/-- Every port but `boot_out_b` reads as before. -/
theorem Outputs.read_withBoot (o : Outputs) (b : BootBuf) {p : OutPort} (hp : p ≠ .boot_out_b) :
    (o.withBoot b).read p = o.read p := by
  cases p with
  | boot_out_b => exact absurd rfl hp
  | _ => rfl

/-- Sectors that agree from byte 446 on get responses that agree but for `boot_out_b` (R102). -/
theorem mbrDecodeOutputs_eq_withBoot {B B' : SectorBuf}
    (h : ∀ i, 446 ≤ i → byteAt B i = byteAt B' i) :
    mbrDecodeOutputs B =
      (mbrDecodeOutputs B').withBoot (mbrDecodeOutputs B).sectorDecoder.boot_out_b := by
  have hsig : signatureOk B = signatureOk B' := by
    rw [signatureOk, h _ (by decide), h _ (by decide)]
    rfl
  have hslot (k : Nat) :
      decodeSlotWith Config.furtherTypes B k = decodeSlotWith Config.furtherTypes B' k := by
    rw [decodeSlotWith, slotBytes_congr h]
    rfl
  unfold mbrDecodeOutputs
  rw [← hsig]
  split
  · simp only [decodeSectorWith, hslot, Outputs.withBoot]
  · rfl

/-! ## The encoder -/

theorem responseTo_mbrEncode (keep : Bool) (boot : BootBuf) (v : Slots EntryIn) :
    responseTo (.mbrEncode keep boot v) = mbrEncodeOutputs keep boot v := rfl

theorem responseTo_mbrBuild (v : Slots EntryIn) :
    responseTo (.mbrBuild v) = mbrEncodeOutputs false 0 v := rfl

theorem responseTo_mbrUpdate (boot : BootBuf) (v : Slots EntryIn) :
    responseTo (.mbrUpdate boot v) = mbrEncodeOutputs true boot v := rfl

@[simp] theorem mbrEncodeOutputs_mbr_out_b (keep : Bool) (boot : BootBuf) (v : Slots EntryIn) :
    (mbrEncodeOutputs keep boot v).sectorEncoder.mbr_out_b = encodeSector keep boot v := rfl

/-- The bootstrap choice, byte by byte (R104). -/
theorem byteAt_encodeSector_boot (keep : Bool) (boot : BootBuf) (v : Slots EntryIn) {i : Nat}
    (hi : i < 446) :
    byteAt (encodeSector keep boot v) i = if keep then byteAt boot i else 0x00 := by
  rw [encodeSector, byteAt_sectorBytes_boot _ _ _ _ hi]
  cases keep with
  | false => exact byteAt_zero_buffer _ i
  | true => rfl

/-- Slot `k` holds the bytes of `PE_ENCODE` (R103, R107). -/
theorem byteAt_encodeSector_slot (keep : Bool) (boot : BootBuf) (v : Slots EntryIn) (k : Fin 4)
    {j : Nat} (hj : j < 16) :
    byteAt (encodeSector keep boot v) (446 + 16 * k.val + j) =
      byteAt (responseTo (.peEncode (v.get k))).partitionEncoder.pe_out_b j := by
  rw [encodeSector, byteAt_sectorBytes_slot _ _ _ _ k hj, Slots.get_map, responseTo_peEncode]

/-- The signature is written always (R103). -/
theorem byteAt_encodeSector_signature (keep : Bool) (boot : BootBuf) (v : Slots EntryIn) :
    byteAt (encodeSector keep boot v) 510 = 0x55 ∧ byteAt (encodeSector keep boot v) 511 = 0xAA :=
  ⟨byteAt_sectorBytes_sig0 _ _ _ _, byteAt_sectorBytes_sig1 _ _ _ _⟩

/-- No byte from 446 on depends on the bootstrap inputs (R102). -/
theorem byteAt_encodeSector_congr_boot (keep keep' : Bool) (boot boot' : BootBuf)
    (v : Slots EntryIn) {i : Nat} (hi : 446 ≤ i) :
    byteAt (encodeSector keep boot v) i = byteAt (encodeSector keep' boot' v) i :=
  byteAt_sectorBytes_congr_boot _ _ _ _ _ hi

/-- Every encoded sector has the signature. -/
theorem signatureOk_encodeSector (keep : Bool) (boot : BootBuf) (v : Slots EntryIn) :
    signatureOk (encodeSector keep boot v) = true :=
  (signatureOk_eq_true_iff _).mpr (byteAt_encodeSector_signature keep boot v)

/-- Encoding what was decoded from a sector with the signature gives the sector back (R109). -/
theorem encodeSector_decodeSectorWith (more : Byte → Bool) {B : SectorBuf}
    (h : signatureOk B = true) :
    encodeSector true (decodeSectorWith more B).boot_out_b
      ((decodeSectorWith more B).slots.map fun x => fieldsOf x.entry) = B := by
  obtain ⟨hsig0, hsig1⟩ := (signatureOk_eq_true_iff B).mp h
  have hslots (k : Fin 4) :
      (((decodeSectorWith more B).slots.map fun x => fieldsOf x.entry).map encodeEntry).get k =
        slotBytes B k := by
    rw [Slots.get_map, Slots.get_map, decodeSectorWith_slots_get]
    exact encodeEntry_fieldsOf_decodeEntryWith more _
  have hB := sectorBytes_of_regions B hslots
  rwa [hsig0, hsig1] at hB

/-! ## The obligations -/

/-- Settles O43: `sig_ok` is the signature check and `err` follows it; the mask covers the same two
bytes. -/
theorem mbrDecodeChecksTheSignature : Obligations.MbrDecodeChecksTheSignature := by
  intro s B
  refine ⟨_, exec_eq_answered rfl s, ?_⟩
  rw [State.answered_outputs, responseTo_mbrDecode, mbrDecodeOutputs_err, mbrDecodeOutputs_sig_ok,
    and_signatureMask_eq_iff]
  exact ⟨signatureOk_eq_true_iff B, signatureOk_eq_true_iff B, rfl⟩

/-- Settles O46: the regions of the sector written. -/
theorem mbrEncodeWritesEveryByte : Obligations.MbrEncodeWritesEveryByte := by
  intro s keep boot v
  refine ⟨encodeSector keep boot v, ?_, fun i hi => byteAt_encodeSector_boot keep boot v hi,
    fun k j hj => byteAt_encodeSector_slot keep boot v k hj,
    byteAt_encodeSector_signature keep boot v⟩
  rw [exec_eq_answered rfl, responseTo_mbrEncode]
  rfl

/-- Settles O47: `MBR_BUILD` writes zeros for the bootstrap area, which `MBR_UPDATE` does too when it is
given zeros. -/
theorem mbrBuildAndUpdateAreEncodes : Obligations.MbrBuildAndUpdateAreEncodes := by
  intro s boot v
  obtain ⟨hbuild0, hbuild1⟩ := byteAt_encodeSector_signature false 0 v
  obtain ⟨hupdate0, hupdate1⟩ := byteAt_encodeSector_signature true boot v
  refine ⟨0, encodeSector false 0 v, encodeSector true boot v, ?build, ?update, fun i hi => ?boot,
    fun k j hj => ?slots, hbuild0, hbuild1, hupdate0, hupdate1, ?same⟩
  case build =>
    rw [exec_eq_answered rfl, responseTo_mbrBuild]
    rfl
  case update =>
    rw [exec_eq_answered rfl, responseTo_mbrUpdate]
    rfl
  case boot =>
    exact ⟨byteAt_encodeSector_boot false 0 v hi, byteAt_encodeSector_boot true boot v hi⟩
  case slots =>
    exact ⟨byteAt_encodeSector_slot false 0 v k hj, byteAt_encodeSector_slot true boot v k hj⟩
  case same =>
    rintro rfl
    rfl

/-- Settles O48: both units copy the bootstrap area, and what they compute from it goes nowhere else. -/
theorem bootstrapIsOpaque : Obligations.BootstrapIsOpaque := by
  refine ⟨fun B hsig0 hsig1 i hi => ?copied, fun B B' hagree p hp => ?unread,
    fun keep boot v i hi => ?written, fun keep keep' boot boot' v i hi => ?elsewhere⟩
  case copied =>
    rw [responseTo_mbrDecode,
      mbrDecodeOutputs_of_signatureOk ((signatureOk_eq_true_iff B).mpr ⟨hsig0, hsig1⟩)]
    exact (byteAt_memRead B hi).trans (by rw [Nat.zero_add])
  case unread =>
    rw [responseTo_mbrDecode, responseTo_mbrDecode, mbrDecodeOutputs_eq_withBoot hagree]
    exact Outputs.read_withBoot _ _ hp
  case written => exact byteAt_encodeSector_boot keep boot v hi
  case elsewhere => exact byteAt_encodeSector_congr_boot keep keep' boot boot' v hi

/-- Settles O49. -/
theorem sectorUpdateAfterDecode : Obligations.SectorUpdateAfterDecode := by
  intro B d hok
  have hsig : signatureOk B = true := (mbrDecodeOutputs_sig_ok B).symm.trans hok
  have hd : d = decodeSectorWith Config.furtherTypes B := by
    simp only [d, responseTo_mbrDecode, mbrDecodeOutputs_of_signatureOk hsig]
  rw [hd, responseTo_mbrUpdate, mbrEncodeOutputs_mbr_out_b, encodeSector_decodeSectorWith _ hsig]

/-- Settles O50: the encoded sector has the signature, and each region is read where it was written. -/
theorem sectorDecodeAfterEncode : Obligations.SectorDecodeAfterEncode := by
  intro keep boot v o
  have ho : o =
      { Outputs.zero with
        sectorDecoder := decodeSectorWith Config.furtherTypes (encodeSector keep boot v) } :=
    mbrDecodeOutputs_of_signatureOk (signatureOk_encodeSector keep boot v)
  rw [ho]
  refine ⟨rfl, rfl, memRead_sectorBytes_boot _ _ _ _, fun k => ?_⟩
  have hslot : slotBytes (encodeSector keep boot v) k = encodeEntry (v.get k) := by
    rw [encodeSector, slotBytes_sectorBytes, Slots.get_map]
  rw [decodeSectorWith_slots_get, decodeSlotWith, hslot, responseTo_peDecode,
    ← decodeEntryWith_eq_entryOutputs, responseTo_peEncode]

/-- Settles O51: the gate is the signature check, and each entry unit computes what its own structure
does. -/
theorem sectorUnitsAreTheirStructures : Obligations.SectorUnitsAreTheirStructures := by
  refine ⟨fun B => ?decoder, fun p => ?encoder⟩
  case decoder =>
    rw [responseTo_mbrDecode, mbrDecodeOutputs_sectorDecoder, sectorDecoderByUnits_eq]
  case encoder =>
    rw [responseTo_mbrEncode, mbrEncodeOutputs_mbr_out_b, encodeSector, sectorEncoderByUnits,
      funext encodeEntry_eq_encodeEntryByUnits, cond_eq_ite]

/-- Settles O44: the bytes read at each place are slices of the bus. -/
theorem mbrDecodeGivesFourEntries : Obligations.MbrDecodeGivesFourEntries := by
  intro s B hsig0 hsig1 slot
  rw [exec_eq_answered rfl, responseTo_mbrDecode,
    mbrDecodeOutputs_of_signatureOk ((signatureOk_eq_true_iff B).mpr ⟨hsig0, hsig1⟩)]
  rfl

end Sys2Proof.Machine

/-! PROOFS of the failures family (`60_exceptions.md`): which transactions end in a failure, what the
flags say of it, and that nothing stays behind. Which operations can fail comes first, then the flags
and codes of every response, what a step does to the script, and last the obligations. -/

namespace Sys2Proof.Machine

/-! ## The two operations that can fail -/

/-- Every other operation has no failure and no flag: `err`, `trunc` and `sig_ok` are 0 (R50, R112). -/
theorem lbaUnpack_or_mbrDecode_or_flags_zero (i : Instr) :
    (∃ b n, i = .lbaUnpack b n) ∨ (∃ B, i = .mbrDecode B) ∨
      (i.opcode ≠ 0xB ∧ (responseTo i).err = .noFailure ∧
        (responseTo i).lbaUnpacker.trunc = false ∧ (responseTo i).sectorDecoder.sig_ok = false) := by
  cases i with
  | lbaUnpack b n => exact .inl ⟨b, n, rfl⟩
  | mbrDecode B => exact .inr (.inl ⟨B, rfl⟩)
  | _ => exact .inr (.inr ⟨nofun, rfl, rfl, rfl⟩)

/-- `err` of `LBA_UNPACK` follows its flag (R113). -/
theorem lbaUnpackOutputs_err (b : LbaBuf) (n : BitVec 10) :
    (lbaUnpackOutputs b n).err = if truncated n then .truncatedInput else .noFailure := by
  unfold lbaUnpackOutputs
  split <;> rfl

/-- `LBA_UNPACK` does not look at a signature (R118). -/
theorem lbaUnpackOutputs_err_ne_invalidSignature (b : LbaBuf) (n : BitVec 10) :
    (lbaUnpackOutputs b n).err ≠ .invalidSignature := by
  rw [lbaUnpackOutputs_err]
  split <;> nofun

/-- `MBR_DECODE` cannot be short of bytes (R111, R118). -/
theorem mbrDecodeOutputs_err_ne_truncatedInput (B : SectorBuf) :
    (mbrDecodeOutputs B).err ≠ .truncatedInput := by
  rw [mbrDecodeOutputs_err]
  split <;> nofun

/-- `trunc` is the check on `avail` (R73). -/
theorem lbaUnpackOutputs_trunc (b : LbaBuf) (n : BitVec 10) :
    (lbaUnpackOutputs b n).lbaUnpacker.trunc = truncated n := by
  unfold lbaUnpackOutputs
  split
  next h => exact h.symm
  next h => exact (Bool.eq_false_iff.mpr h).symm

/-- `LBA_UNPACK` leaves the sector decoder's ports at zero, whether it fails or not (R50). -/
theorem lbaUnpackOutputs_sectorDecoder (b : LbaBuf) (n : BitVec 10) :
    (lbaUnpackOutputs b n).sectorDecoder = Outputs.zero.sectorDecoder := by
  unfold lbaUnpackOutputs
  split <;> rfl

/-- `MBR_DECODE` leaves the LBA unpacker's ports at zero, whether it fails or not (R50). -/
theorem mbrDecodeOutputs_lbaUnpacker (B : SectorBuf) :
    (mbrDecodeOutputs B).lbaUnpacker = Outputs.zero.lbaUnpacker := by
  unfold mbrDecodeOutputs
  split <;> rfl

/-- A sector without the signature is answered with the failure (R114). -/
theorem responseTo_mbrDecode_of_no_signature {B : SectorBuf}
    (h : ¬ (byteAt B 510 = 0x55 ∧ byteAt B 511 = 0xAA)) :
    responseTo (.mbrDecode B) = raise .invalidSignature :=
  if_neg (mt (signatureOk_eq_true_iff B).mp h)

/-! ## Codes and flags of every response -/

/-- `TruncatedInput` is a short `LBA_UNPACK` (R113). -/
theorem responseTo_err_eq_truncatedInput_iff (i : Instr) :
    (responseTo i).err = .truncatedInput ↔ ∃ b n, i = .lbaUnpack b n ∧ n.toNat < 4 := by
  constructor
  · intro h
    obtain ⟨b, n, rfl⟩ | ⟨B, rfl⟩ | ⟨-, herr, -, -⟩ := lbaUnpack_or_mbrDecode_or_flags_zero i
    · rw [responseTo_lbaUnpack, lbaUnpackOutputs_err] at h
      exact ⟨b, n, rfl, (truncated_eq_true_iff n).mp (by simpa using h)⟩
    · exact absurd h (mbrDecodeOutputs_err_ne_truncatedInput B)
    · rw [herr] at h
      cases h
  · rintro ⟨b, n, rfl, hshort⟩
    rw [responseTo_lbaUnpack_of_lt b hshort, raise_err_truncatedInput]

/-- `InvalidSignature` is an `MBR_DECODE` of a sector without the signature (R114). -/
theorem responseTo_err_eq_invalidSignature_iff (i : Instr) :
    (responseTo i).err = .invalidSignature ↔
      ∃ B, i = .mbrDecode B ∧ ¬ (byteAt B 510 = 0x55 ∧ byteAt B 511 = 0xAA) := by
  constructor
  · intro h
    obtain ⟨b, n, rfl⟩ | ⟨B, rfl⟩ | ⟨-, herr, -, -⟩ := lbaUnpack_or_mbrDecode_or_flags_zero i
    · exact absurd h (lbaUnpackOutputs_err_ne_invalidSignature b n)
    · rw [responseTo_mbrDecode, mbrDecodeOutputs_err] at h
      exact ⟨B, rfl, fun hsig => by simp [(signatureOk_eq_true_iff B).mpr hsig] at h⟩
    · rw [herr] at h
      cases h
  · rintro ⟨B, rfl, hsig⟩
    rw [responseTo_mbrDecode_of_no_signature hsig, raise_err_invalidSignature]

/-- `trunc` and the code say the same thing twice (R115). -/
theorem responseTo_trunc_eq_true_iff (i : Instr) :
    (responseTo i).lbaUnpacker.trunc = true ↔ (responseTo i).err = .truncatedInput := by
  obtain ⟨b, n, rfl⟩ | ⟨B, rfl⟩ | ⟨-, herr, htrunc, -⟩ := lbaUnpack_or_mbrDecode_or_flags_zero i
  · simp [responseTo_lbaUnpack, lbaUnpackOutputs_err, lbaUnpackOutputs_trunc]
  · simp [responseTo_mbrDecode, mbrDecodeOutputs_err_ne_truncatedInput,
      mbrDecodeOutputs_lbaUnpacker, Outputs.zero]
  · simp [herr, htrunc]

/-- `sig_ok` is 1 exactly when `MBR_DECODE` succeeds (R101, R115). -/
theorem responseTo_sig_ok_eq_true_iff (i : Instr) :
    (responseTo i).sectorDecoder.sig_ok = true ↔
      i.opcode = 0xB ∧ (responseTo i).err ≠ .invalidSignature := by
  obtain ⟨b, n, rfl⟩ | ⟨B, rfl⟩ | ⟨hcode, -, -, hsig⟩ := lbaUnpack_or_mbrDecode_or_flags_zero i
  · simp [responseTo_lbaUnpack, lbaUnpackOutputs_sectorDecoder, Outputs.zero, Instr.opcode]
  · simp [responseTo_mbrDecode, mbrDecodeOutputs_err, mbrDecodeOutputs_sig_ok, Instr.opcode]
  · exact iff_of_false (by simp [hsig]) fun h => hcode h.1

/-- `TruncatedInput` needs the code of `LBA_UNPACK` (R113). -/
theorem opcode_of_err_eq_truncatedInput {i : Instr} (h : (responseTo i).err = .truncatedInput) :
    i.opcode = 0x4 := by
  obtain ⟨b, n, rfl, -⟩ := (responseTo_err_eq_truncatedInput_iff i).mp h
  rfl

/-- `InvalidSignature` needs the code of `MBR_DECODE` (R114). -/
theorem opcode_of_err_eq_invalidSignature {i : Instr}
    (h : (responseTo i).err = .invalidSignature) : i.opcode = 0xB := by
  obtain ⟨B, rfl, -⟩ := (responseTo_err_eq_invalidSignature_iff i).mp h
  rfl

/-- An answered state has flags that agree, whatever its wires carried before (R13, R115). -/
theorem State.flagsAgree_answered (s : State) (i : Instr) :
    (s.answered i (responseTo i)).flagsAgree := by
  unfold State.flagsAgree
  rw [State.answered_outputs, State.answered_inputs, drive_op]
  exact ⟨responseTo_trunc_eq_true_iff i, opcode_of_err_eq_truncatedInput,
    opcode_of_err_eq_invalidSignature, responseTo_sig_ok_eq_true_iff i⟩

/-- Code 3 stands for no failure (R115). -/
theorem Err.code_ne_three (e : Err) : e.code ≠ 3 := by
  cases e <;> decide

/-- Only the units of the two failing operations have an `err` other than 0 (R21, R115). -/
theorem unit_of_unitErr_ne_noFailure {i : Instr} {u : UnitName}
    (h : unitErr i.opcode (responseTo i) u ≠ .noFailure) : u = .lbaUnpacker ∨ u = .sectorDecoder := by
  obtain ⟨hunit, herr⟩ : unitOf i.opcode = some u ∧ (responseTo i).err ≠ .noFailure := by
    simpa [unitErr] using h
  cases hcode : (responseTo i).err with
  | noFailure => exact absurd hcode herr
  | truncatedInput =>
    rw [opcode_of_err_eq_truncatedInput hcode] at hunit
    exact .inl (Option.some.inj hunit).symm
  | invalidSignature =>
    rw [opcode_of_err_eq_invalidSignature hcode] at hunit
    exact .inr (Option.some.inj hunit).symm

/-! ## The script -/

/-- A step takes one line off the script, whatever the response (R50). -/
theorem step_script {s t : State} (h : step s = .next t) : t.script = s.script.tail := by
  obtain ⟨-, rfl⟩ := step_eq_next_iff.mp h
  rfl

/-! ## The obligations -/

/-- Settles O22: the code of every response, and the failure that a short input raises. -/
theorem truncatedInputExactlyWhenShort : Obligations.TruncatedInputExactlyWhenShort := by
  constructor
  · intro i s t hexec
    obtain ⟨-, rfl⟩ := exec_eq_next_iff.mp hexec
    exact responseTo_err_eq_truncatedInput_iff i
  · intro s b n hshort
    refine ⟨_, exec_eq_answered rfl s, ?_⟩
    rw [State.answered_outputs, responseTo_lbaUnpack_of_lt b hshort]
    exact ⟨rfl, rfl, rfl, rfl, rfl, rfl⟩

/-- Settles O45: the code of every response, and the failure that a sector without the signature
raises. -/
theorem invalidSignatureExactlyWithoutSignature :
    Obligations.InvalidSignatureExactlyWithoutSignature := by
  constructor
  · intro i s t hexec
    obtain ⟨-, rfl⟩ := exec_eq_next_iff.mp hexec
    exact responseTo_err_eq_invalidSignature_iff i
  · intro s B hsig
    refine ⟨_, exec_eq_answered rfl s, ?_⟩
    rw [State.answered_outputs, responseTo_mbrDecode_of_no_signature hsig]
    exact ⟨rfl, rfl, rfl, rfl⟩

/-- Settles O55: a step answers, and the flags and codes of a response depend on its request alone. -/
theorem stepKeepsFlagsAgreeing : Obligations.StepKeepsFlagsAgreeing := by
  intro s t hstep
  obtain ⟨-, rfl⟩ := step_eq_next_iff.mp hstep
  refine ⟨State.flagsAgree_answered _ _, Err.code_ne_three _, fun u hu => ?_⟩
  rw [State.answered_outputs, State.answered_inputs, drive_op] at hu
  exact unit_of_unitErr_ne_noFailure hu

/-- Settles O60: after the step on the first line the second is next, as it is from the state without
the first, and the response is a function of that line. The argument is the same for a step that does
not fail. -/
theorem failureLeavesNothingBehind : Obligations.FailureLeavesNothingBehind := by
  intro s t u w w' ws hscript hfirst _ hsecond
  have hrest : t.script = w' :: ws := by rw [step_script hfirst, hscript, List.tail_cons]
  have hnext : nextInstr t = nextInstr { s with script := w' :: ws } := nextInstr_of_cons hrest
  obtain ⟨v, hv, houtputs, hresults⟩ := responseIsAFunctionOfTheRequest.1 t _ u hnext hsecond
  refine ⟨v, hv, houtputs, hresults, ?_⟩
  rw [step_script hv, step_script hsecond, hrest]

end Sys2Proof.Machine

/-! PROOFS of the reset and hazards family (`70_reset_and_hazards.md`): the invariants at reset
(R125) and a script that ends, one step a line (R136). The request on the wires and its flags come
first, then what presenting a line does and runs of the machine, and last the obligations. -/

namespace Sys2Proof.Machine

/-! ## The request on the wires -/

/-- An operation code is its four bits. -/
theorem op_eq_bits (op : BitVec 4) :
    op = BitVec.ofBool (op.getLsbD 3) ++ BitVec.ofBool (op.getLsbD 2) ++
      BitVec.ofBool (op.getLsbD 1) ++ BitVec.ofBool (op.getLsbD 0) := by
  revert op
  decide

/-- What the wires select has the code on the `op` wires (R49). -/
@[simp] theorem opcode_selected (p : Inputs) : (selected p).opcode = p.op := by
  rw [op_eq_bits p.op]
  unfold selected
  split <;> simp only [*] <;> rfl

/-- A state whose response stands beside its request has flags that agree: they are the flags of
that response (R13, R115). -/
theorem State.flagsAgree_of_coherent {s : State} (h : s.coherent) : s.flagsAgree := by
  obtain ⟨t, hexec, houtputs⟩ := h
  obtain ⟨-, rfl⟩ := exec_eq_next_iff.mp hexec
  have hflags := State.flagsAgree_answered s (selected s.inputs)
  unfold State.flagsAgree at hflags ⊢
  rwa [houtputs, State.answered_inputs, drive_op, opcode_selected] at hflags

/-- At reset the wires ask for `CHS_EMPTY` and carry its response (R22, R125). -/
theorem State.reset_coherent : State.reset.coherent :=
  ⟨_, exec_eq_answered (i := .chsEmpty) rfl State.reset, rfl⟩

/-! ## Presenting a line -/

/-- A line that names an operation by its code decodes to one that is answered (R51). -/
theorem unreserved_iff_wellFormed (w : ReqWord) :
    unreserved w = true ↔ (decode w).wellFormed = true := by
  rw [wellFormed_iff_opcode_le, opcode_decode, unreserved, decide_eq_true_iff]

/-- The state after the line `w`, the first of the script, is presented and answered. -/
def State.present (s : State) (w : ReqWord) : State :=
  s.takeLine.answered (decode w) (responseTo (decode w))

@[simp] theorem State.present_script (s : State) (w : ReqWord) :
    (s.present w).script = s.script.tail := rfl

@[simp] theorem State.present_outputs (s : State) (w : ReqWord) :
    (s.present w).outputs = responseTo (decode w) := rfl

/-- A step with an unreserved line to come presents that line: it cannot block (R136). -/
theorem step_eq_present {s : State} {w : ReqWord} {ws : List ReqWord} (hscript : s.script = w :: ws)
    (hw : unreserved w = true) : step s = .next (s.present w) := by
  rw [step_eq_next_iff, nextInstr_of_cons hscript]
  exact ⟨(unreserved_iff_wellFormed w).mp hw, rfl⟩

/-! ## Runs -/

/-- A run of `k + 1` steps whose first step answers goes on from the answer. -/
theorem run_succ_of_step {M : Host.Core} {s t : M.State} (h : M.step s = .next t) (k : Nat) :
    M.run (k + 1) s = M.run k t := by
  rw [Host.Core.run, h]

/-- As many steps as there are lines present every line in order (R12, R136). -/
theorem run_eq_foldl_present {ws : List ReqWord} {s : State} (hscript : s.script = ws)
    (hws : ∀ w ∈ ws, unreserved w = true) :
    Host.Core.run Sys2Proof.core ws.length s = .next (ws.foldl State.present s) := by
  induction ws generalizing s with
  | nil => rfl
  | cons w ws ih =>
    obtain ⟨hw, hrest⟩ := List.forall_mem_cons.mp hws
    have htail : (s.present w).script = ws := by rw [State.present_script, hscript, List.tail_cons]
    calc Host.Core.run Sys2Proof.core (ws.length + 1) s
        = Host.Core.run Sys2Proof.core ws.length (s.present w) :=
          run_succ_of_step (M := Sys2Proof.core) (step_eq_present hscript hw) ws.length
      _ = .next (ws.foldl State.present (s.present w)) := ih htail hrest

/-- Presenting lines takes as many off the script. -/
theorem foldl_present_script (ws : List ReqWord) (s : State) :
    (ws.foldl State.present s).script = s.script.drop ws.length := by
  induction ws generalizing s with
  | nil => rfl
  | cons w ws ih =>
    rw [List.foldl_cons, ih, State.present_script, List.drop_tail, List.length_cons]

/-! ## The obligations -/

/-- Settles O59: the run presents every line, so that none is left and the last one's response is on
the wires. -/
theorem everyScriptEnds : Obligations.EveryScriptEnds := by
  intro s hissuable
  obtain ⟨hlines, -⟩ := (Bool.and_eq_true _ _).mp hissuable
  refine ⟨s.script.foldl State.present s,
    run_eq_foldl_present rfl (List.all_eq_true.mp hlines), ?_, ?_⟩
  · rw [foldl_present_script, List.drop_length]
  · intro ws w hscript
    rw [hscript, List.foldl_concat, State.present_outputs]

/-- Settles O57: the response at reset stands beside its request, and so its flags agree. -/
theorem resetMeetsTheInvariants : Obligations.ResetMeetsTheInvariants :=
  ⟨State.reset_coherent, State.flagsAgree_of_coherent State.reset_coherent⟩

end Sys2Proof.Machine
